-- ==== Sys2Proof/Word.lean ====
section
/-! DEFINITION. The word types of the block: every core entity is a fixed-width unsigned bit vector
(00_scope.md R6, R9), with no sign and no arithmetic overflow. -/

namespace Sys2Proof

/-- A 64-bit register value, block, key or command word (R6, R30, R100). -/
abbrev Word := BitVec 64

/-- An 8-bit register index (R7, R74). -/
abbrev RegIndex := BitVec 8

/-- One of the key-schedule halves C and D (R6, R39). -/
abbrev KeyHalf := BitVec 28

/-- One of the Feistel halves L and R (R6, R40). -/
abbrev Half := BitVec 32

/-- A round key (R6, R37). -/
abbrev RoundKey := BitVec 48

end Sys2Proof
end

