-- ==== Sys2Proof/Config.lean ====
section
/-! DEFINITION. What an integrator fixes. The spec leaves no value open that the block computes (R6, R7 and
"Open parameters" of 92_eei_decisions.md), so there is no free value here: the one open parameter is
`DES_BASE`, which belongs to the bus adapter and which no step of the block sees (R88). -/

namespace Sys2Proof.Config

/-- The platform around one instance of the block. -/
structure Platform where
  /-- `DES_BASE`, the byte address at which the platform maps register index 0 (R88). -/
  desBase : Nat
  deriving DecidableEq, Repr

end Sys2Proof.Config
end

