-- ==== Sys2Proof/Machine/State.lean ====
section
/-! DEFINITION. The state of one block and of its host port, as plain data (10_state.md R30-R48), and the state after
reset (70_reset_and_hazards.md R260). -/

namespace Sys2Proof.Machine

/-- STATUS.DIR: the round-key order of the running block (R36, R104). -/
inductive Direction where
  /-- 0: encipher order, round i uses RK[i]. -/
  | forward
  /-- 1: decipher order, round i uses RK[15 - i]. -/
  | reverse
  deriving DecidableEq, Repr

/-- The error names of the host interface (60_exceptions.md R233). -/
inductive ErrorCode where
  /-- A CMD word outside the opcode map (R234). -/
  | illegalCmd
  /-- KSNEXT without a key-schedule instance (R235). -/
  | ksNotLoaded
  /-- FROUND or FFINISH without a loaded Feistel state (R236). -/
  | fNotLoaded
  /-- FROUND whose round key has not been emitted (R237). -/
  | rkNotReady
  /-- FROUND after 16 rounds (R238). -/
  | roundsDone
  /-- FFINISH before 16 rounds (R239). -/
  | roundsPending
  /-- A write to a read-only register (R240). -/
  | writeRo
  /-- A write to an unmapped index (R241). -/
  | badReg
  deriving DecidableEq, Repr

/-- A host transaction (R70, R71, R110). -/
inductive HostTxn where
  /-- HostRead(index). -/
  | read (index : RegIndex)
  /-- HostWrite(index, data). -/
  | write (index : RegIndex) (data : Word)
  /-- HostReset(). -/
  | reset
  deriving DecidableEq, Repr

/-- What a completed HostRead gave the host: the record (READ, index, data) of R110. -/
structure ReadReply where
  /-- The index that was read. -/
  index : RegIndex
  /-- The returned value. -/
  data : Word
  deriving DecidableEq, Repr

/-- The block's registers (R30-R44), one home each, and the host port: the transactions the host has issued and
the block has not begun, and the values the host has read (log entries 1 and 2). -/
structure State where
  /-- KEY, the secret key (R31). -/
  key : Word
  /-- BLOCK, the input block (R32). -/
  block : Word
  /-- RESULT, the output block (R42). -/
  result : Word
  /-- KOUT, the last emitted round key (R38). -/
  kout : RoundKey
  /-- C, the upper key-schedule half (R39). -/
  c : KeyHalf
  /-- D, the lower key-schedule half (R39). -/
  d : KeyHalf
  /-- RK[0] … RK[15], the round-key file (R37). -/
  rk : Vector RoundKey 16
  /-- L, the upper Feistel half (R40). -/
  l : Half
  /-- R, the lower Feistel half (R40). -/
  r : Half
  /-- STATUS.KS_ROUND, 0..16 (R34; log entry 3). -/
  ksRound : Fin 17
  /-- STATUS.KS_LOADED (R34). -/
  ksLoaded : Bool
  /-- STATUS.EOS (R35). -/
  eos : Bool
  /-- STATUS.RND, 0..16 (R36; log entry 3). -/
  rnd : Fin 17
  /-- STATUS.F_LOADED (R36). -/
  fLoaded : Bool
  /-- STATUS.DIR (R36). -/
  dir : Direction
  /-- STATUS.ERR (R44). -/
  err : Bool
  /-- STATUS.ERRCODE (R44). -/
  errCode : BitVec 4
  /-- The model's own: transactions issued and not begun, oldest first (R76, R82; log entry 1). -/
  pending : List HostTxn
  /-- The model's own: the values HostRead has returned, oldest first (R70; log entry 2). -/
  replies : List ReadReply
  deriving DecidableEq, Repr

/-- Why a run stops. Empty: the block raises no exception and takes no trap, and an error leaves it running
(R230, R232, R244, R254; log entry 6). -/
inductive Fault
  deriving DecidableEq, Repr

/-- Why a command has no meaning. -/
inductive Refusal where
  /-- Raised by `exec`'s arm of a command that has no meaning yet, of which there is none; safe, since a run
  stops there. -/
  | notModelled (mnemonic : String)
  deriving DecidableEq, Repr

/-- The state after HostReset() and after power-on (R260, R262), with no transaction issued yet. -/
def State.reset : State where
  key := 0
  block := 0
  result := 0
  kout := 0
  c := 0
  d := 0
  rk := Vector.replicate 16 0
  l := 0
  r := 0
  ksRound := 0
  ksLoaded := false
  eos := false
  rnd := 0
  fLoaded := false
  dir := .forward
  err := false
  errCode := 0
  pending := []
  replies := []

end Sys2Proof.Machine
end

