-- ==== Sys2Proof/Machine/Flags.lean ====
section
/-! DEFINITION. The STATUS register as the host reads it (10_state.md R33) and the numbers of the error codes
(60_exceptions.md R233). -/

namespace Sys2Proof.Machine

/-- The value of STATUS.ERRCODE for each error (R233). -/
def ErrorCode.code : ErrorCode → BitVec 4
  | .illegalCmd => 1
  | .ksNotLoaded => 2
  | .fNotLoaded => 3
  | .rkNotReady => 4
  | .roundsDone => 5
  | .roundsPending => 6
  | .writeRo => 7
  | .badReg => 8

/-- STATUS.DIR as a bit: 0 forward, 1 reverse (R36). -/
def Direction.bit : Direction → BitVec 1
  | .forward => 0
  | .reverse => 1

/-- A round counter as its 5-bit STATUS field (R34, R36). -/
def counterBits (n : Fin 17) : BitVec 5 := BitVec.ofNat 5 n.val

/-- STATUS, bits [63:0] from the most significant field down; reserved bits are hard-wired 0 (R33). -/
def statusWord (s : State) : Word :=
  (0 : BitVec 40) ++ s.errCode                        -- [63:24] reserved, [23:20] ERRCODE
    ++ (0 : BitVec 3) ++ BitVec.ofBool s.err          -- [19:17] reserved, [16] ERR
    ++ (0 : BitVec 1) ++ s.dir.bit                    -- [15] reserved, [14] DIR
    ++ BitVec.ofBool s.fLoaded ++ counterBits s.rnd   -- [13] F_LOADED, [12:8] RND
    ++ (0 : BitVec 1) ++ BitVec.ofBool s.eos          -- [7] reserved, [6] EOS
    ++ BitVec.ofBool s.ksLoaded ++ counterBits s.ksRound  -- [5] KS_LOADED, [4:0] KS_ROUND

end Sys2Proof.Machine
end

