-- ==== Sys2Proof/Machine/Operands.lean ====
section
/-! DEFINITION. What the host sees: the register index map (10_state.md R30), the value a read of each index
returns (20_memory.md R70, R75, R77), and the byte view of a block (R72) with the adapter's addresses (R88). -/

namespace Sys2Proof.Machine

/-- The mapped registers (R30). -/
inductive Reg where
  /-- KEY, index 0x00. -/
  | key
  /-- BLOCK, index 0x01. -/
  | block
  /-- CMD, index 0x02. -/
  | cmd
  /-- STATUS, index 0x03. -/
  | status
  /-- RESULT, index 0x04. -/
  | result
  /-- KOUT, index 0x05. -/
  | kout
  /-- CD, index 0x06. -/
  | cd
  /-- LR, index 0x07. -/
  | lr
  /-- RK[j], index 0x10 + j. -/
  | rk (j : Fin 16)
  deriving DecidableEq, Repr

/-- The index column of the register map (R30). -/
def Reg.index : Reg → RegIndex
  | .key => 0x00
  | .block => 0x01
  | .cmd => 0x02
  | .status => 0x03
  | .result => 0x04
  | .kout => 0x05
  | .cd => 0x06
  | .lr => 0x07
  | .rk j => 0x10 + BitVec.ofNat 8 j.val

/-- The register at an index, none where the index is unmapped: 0x08 … 0x0F and 0x20 … 0xFF (R30). -/
def regAt (i : RegIndex) : Option Reg :=
  if i = 0x00 then some .key
  else if i = 0x01 then some .block
  else if i = 0x02 then some .cmd
  else if i = 0x03 then some .status
  else if i = 0x04 then some .result
  else if i = 0x05 then some .kout
  else if i = 0x06 then some .cd
  else if i = 0x07 then some .lr
  else if i.extractLsb' 4 4 = 0x1 then some (.rk (i.extractLsb' 0 4).toFin)
  else none

/-- The 64-bit value of a register as the host reads it; CMD reads 0, and narrow registers read zero-extended
(R70, R75). -/
def regValue (s : State) : Reg → Word
  | .key => s.key
  | .block => s.block
  | .cmd => 0
  | .status => statusWord s
  | .result => s.result
  | .kout => s.kout.setWidth 64
  | .cd => (s.c ++ s.d).setWidth 64
  | .lr => s.l ++ s.r
  | .rk j => s.rk[j].setWidth 64

/-- What HostRead(i) returns; an unmapped index reads 0 (R70, R77). -/
def readValue (i : RegIndex) (s : State) : Word :=
  match regAt i with
  | some reg => regValue s reg
  | none => 0

/-- Byte j of a block seen as 8 bytes, byte 0 first: v[63-8j : 56-8j] (R72). -/
def byteOf (v : Word) (j : Fin 8) : BitVec 8 := v.extractLsb' (56 - 8 * j.val) 8

/-- The 8 bytes of a block, byte 0 first (R72). -/
def bytesOfBlock (v : Word) : Vector (BitVec 8) 8 := Vector.ofFn (byteOf v)

/-- The block of 8 bytes, byte 0 in bits [63:56] (R72). -/
def blockOfBytes (b : Vector (BitVec 8) 8) : Word :=
  b[0] ++ b[1] ++ b[2] ++ b[3] ++ b[4] ++ b[5] ++ b[6] ++ b[7]

/-- The byte address at which a bus adapter places register index i (R88). The block does not see it. -/
def busAddress (p : Config.Platform) (i : RegIndex) : Nat := p.desBase + 8 * i.toNat

end Sys2Proof.Machine
end

