-- ==== Sys2Proof/Machine/Ops.lean ====
section
/-! DEFINITION. The named operations every command and transaction is made of: recording an error (60_exceptions.md
R232), which is the block's whole exception mechanism (there is no return from it, R245); `clear_schedule`
(20_memory.md R79); reset (70_reset_and_hazards.md R260); and the host port. -/

namespace Sys2Proof.Machine

/-- What a command's own pseudocode ends in: the new state, or the error it raises. -/
abbrev CmdResult := Except ErrorCode State

/-- `raise Error(code)`: the first error since reset is recorded, a later one leaves ERRCODE as it is, and no
other register or field changes (R232, R44). -/
def raiseError (e : ErrorCode) (s : State) : State :=
  { s with err := true, errCode := if s.err then s.errCode else e.code }

/-- The end of a command: its new state, or its error recorded in the state it began in, with no other effect
(R232). -/
def complete (s : State) : CmdResult → Host.Outcome State Fault Refusal
  | .ok t => .next t
  | .error e => .next (raiseError e s)

/-- `repeat n: command` inside one atomic command (R198); the first error ends it (R232). -/
def repeatCmd : Nat → (State → CmdResult) → State → CmdResult
  | 0, _, s => .ok s
  | n + 1, f, s =>
    match f s with
    | .ok t => repeatCmd n f t
    | .error e => .error e

/-- `clear_schedule()` (R79). -/
def clearSchedule (s : State) : State :=
  { s with c := 0, d := 0, kout := 0, rk := Vector.replicate 16 0,
           ksLoaded := false, ksRound := 0, eos := false }

/-- `HostReset()`: every register of the block takes its reset value (R71, R260); the host's own queue and the
values it has read are no registers of the block (log entries 1 and 2). -/
def resetBlock (s : State) : State :=
  { State.reset with pending := s.pending, replies := s.replies }

/-- The oldest transaction leaves the queue (R76). -/
def popTxn (s : State) : State := { s with pending := s.pending.tail }

/-- HostRead(i) returns the register's value to the host and changes no register (R70, R77). -/
def recordRead (i : RegIndex) (s : State) : State :=
  { s with replies := s.replies ++ [⟨i, readValue i s⟩] }

/-- HostWrite(i, v) for every index but CMD (R70, R78, R79, R80). -/
def writeReg (i : RegIndex) (v : Word) (s : State) : State :=
  match regAt i with
  | some .key => clearSchedule { s with key := v }
  | some .block => { s with block := v }
  | some _ => raiseError .writeRo s
  | none => raiseError .badReg s

end Sys2Proof.Machine
end

