-- ==== Sys2Proof/Machine/Permutation.lean ====
section
/-! DEFINITION. The permutation primitive that PC-1, PC-2, E, P, IP and FP are made of (40_permutation.md R130-R133).
It is combinational, total and pure (R132). -/

namespace Sys2Proof.Machine

/-- `des_W(v, n)`: DES bit n of a W-bit value, 1-indexed from the most significant bit (00_scope.md R8). -/
def desBit {w : Nat} (v : BitVec w) (n : Nat) : Bool := v.getLsbD (w - n)

/-- `permute(x, T, Win)`: output DES bit i+1 is input DES bit T[i] (R131; 90_conflicts.md C2). -/
def permute {win wout : Nat} (x : BitVec win) (t : Vector Nat wout) : BitVec wout :=
  (BitVec.ofBoolListBE (t.toList.map (desBit x))).cast (by simp)

/-- Every entry of a table is a position of its input (R130). -/
def tableOk {wout : Nat} (win : Nat) (t : Vector Nat wout) : Bool :=
  t.toList.all fun p => 1 ≤ p && p ≤ win

end Sys2Proof.Machine
end

