-- ==== Sys2Proof/Machine/KeySchedule.lean ====
section
/-! DEFINITION. The key schedule (41_key_schedule.md): PC-1, the left-rotate stages and PC-2 as functions, and the
commands KSLOAD (R150) and KSNEXT (R151). -/

namespace Sys2Proof.Machine

/-- `PC1(key) = (C0, D0)` (R142). -/
def pc1 (key : Word) : KeyHalf × KeyHalf := (permute key pc1C, permute key pc1D)

/-- `rotl28(x, s)`: circular left rotation inside the 28-bit field; the mask 0xFFFFFFF is the type's width (R143). -/
def rotl28 (x : KeyHalf) (s : Nat) : KeyHalf := (x <<< s) ||| (x >>> (28 - s))

/-- `shift(r)`: the rotation amount of 0-indexed round r (R144). -/
def shiftOf (r : Nat) : Nat := if r = 0 ∨ r = 1 ∨ r = 8 ∨ r = 15 then 1 else 2

/-- `σ(n)`: the total rotation after n rounds (R144). -/
def totalShift : Nat → Nat
  | 0 => 0
  | n + 1 => totalShift n + shiftOf n

/-- `PC2(C, D) = permute(C ‖ D, PC2, 56)` (R146). -/
def pc2 (c d : KeyHalf) : RoundKey := permute (c ++ d) pc2Table

/-- One left-rotate stage: both halves rotated by shift(r) (R147). -/
def rotateHalves (r : Nat) (cd : KeyHalf × KeyHalf) : KeyHalf × KeyHalf :=
  (rotl28 cd.1 (shiftOf r), rotl28 cd.2 (shiftOf r))

/-- The halves (c, d) of the loop of `KS(key)` after n passes (R147). -/
def halvesAfter (key : Word) : Nat → KeyHalf × KeyHalf
  | 0 => pc1 key
  | n + 1 => rotateHalves n (halvesAfter key n)

/-- The key `K[r]` that pass r of `KS(key)` emits (R147). -/
def roundKey (key : Word) (r : Nat) : RoundKey :=
  pc2 (halvesAfter key (r + 1)).1 (halvesAfter key (r + 1)).2

/-- `KS(key)`: the sequence of the 16 round keys (R147). -/
def keySchedule (key : Word) : Vector RoundKey 16 := Vector.ofFn fun r => roundKey key r.val

/-- KSLOAD's pseudocode (R150). -/
def ksLoad (s : State) : State :=
  { clearSchedule s with c := (pc1 s.key).1, d := (pc1 s.key).2, ksLoaded := true }

/-- The key-emitting branch of KSNEXT, at a KS_ROUND r below 16 (R151). -/
def ksEmit (r : Fin 16) (s : State) : State :=
  { s with
    c := rotl28 s.c (shiftOf r.val)
    d := rotl28 s.d (shiftOf r.val)
    rk := s.rk.set r.val (pc2 (rotl28 s.c (shiftOf r.val)) (rotl28 s.d (shiftOf r.val))) r.isLt
    kout := pc2 (rotl28 s.c (shiftOf r.val)) (rotl28 s.d (shiftOf r.val))
    ksRound := r.succ }

/-- KSNEXT's pseudocode (R151): KS_NOT_LOADED without an instance, EOS alone at round 16, else one key. -/
def ksNext (s : State) : CmdResult :=
  if s.ksLoaded = false then .error .ksNotLoaded
  else if h : s.ksRound.val < 16 then .ok (ksEmit ⟨s.ksRound.val, h⟩ s)
  else .ok { s with eos := true }

/-- KSLOAD (R150). No exception. -/
def execKsload (s : State) : Host.Outcome State Fault Refusal := complete s (.ok (ksLoad s))

/-- KSNEXT (R151, R235, R231). -/
def execKsnext (s : State) : Host.Outcome State Fault Refusal := complete s (ksNext s)

end Sys2Proof.Machine
end

