-- ==== Sys2Proof/Machine/RoundFunction.lean ====
section
/-! DEFINITION. The Feistel round function (42_round_function.md R170-R179): E-expansion, key mixing, S-box
substitution, P-permutation. It is combinational, total and pure (R179). -/

namespace Sys2Proof.Machine

/-- `Expand(r)` (R171). -/
def expand (r : Half) : RoundKey := permute r eTable

/-- Chunk i of the key-mixed value, the most significant first: x[47-6i : 42-6i] (R173). -/
def chunk (x : RoundKey) (i : Fin 8) : BitVec 6 := x.extractLsb' (42 - 6 * i.val) 6

/-- `row(b)`: bit 5 concatenated with bit 0 (R174). -/
def sRow (b : BitVec 6) : Fin 4 := (b.extractLsb' 5 1 ++ b.extractLsb' 0 1).toFin

/-- `col(b)`: bits 4..1 (R174). -/
def sCol (b : BitVec 6) : Fin 16 := (b.extractLsb' 1 4).toFin

/-- The 4-bit output of S-box S(i+1) on chunk i (R175, R176). -/
def sOut (x : RoundKey) (i : Fin 8) : BitVec 4 := sTable[i][sRow (chunk x i)][sCol (chunk x i)]

/-- `SBox(x)`: the output of chunk i at y[31-4i : 28-4i], the standard's order (R176; 90_conflicts.md C1). -/
def sBox (x : RoundKey) : Half :=
  sOut x 0 ++ sOut x 1 ++ sOut x 2 ++ sOut x 3 ++ sOut x 4 ++ sOut x 5 ++ sOut x 6 ++ sOut x 7

/-- `f(r, k)`, the round function (R172, R178). -/
def feistel (r : Half) (k : RoundKey) : Half := permute (sBox (expand r ^^^ k)) pTable

end Sys2Proof.Machine
end

