-- ==== Sys2Proof/Machine/Cipher.lean ====
section
/-! DEFINITION. The cipher driver (43_cipher_driver.md): IP and FP, `transform`, `encipher` and `decipher` as
functions, and the commands FLOAD.F, FLOAD.R (R195), FROUND (R196), FFINISH (R197), ENC (R198) and DEC (R199). -/

namespace Sys2Proof.Machine

/-- `IPf(v)` (R192). -/
def ipf (v : Word) : Word := permute v ipTable

/-- `FPf(v)` (R192). -/
def fpf (v : Word) : Word := permute v fpTable

/-- The upper and lower half of a 64-bit value: x[63:32] and x[31:0] (R193, R195). -/
def splitHalves (x : Word) : Half × Half := (x.extractLsb' 32 32, x.extractLsb' 0 32)

/-- `key_index` of round i: i in forward order, 15 - i in reverse (R193, R196). Rounds are 0..15; a larger i, which
no rule uses, is reduced into the file (log entry 9). -/
def keyIndex (d : Direction) (i : Nat) : Fin 16 :=
  match d with
  | .forward => Fin.ofNat 16 i
  | .reverse => Fin.ofNat 16 (15 - i)

/-- One Feistel round: (lhs, rhs) becomes (rhs, lhs ^ f(rhs, k)), simultaneously (R193). -/
def feistelRound (k : RoundKey) (lr : Half × Half) : Half × Half := (lr.2, lr.1 ^^^ feistel lr.2 k)

/-- The halves of `transform`'s loop after n rounds (R193). -/
def halvesAfterRounds (block : Word) (k : Vector RoundKey 16) (d : Direction) : Nat → Half × Half
  | 0 => splitHalves (ipf block)
  | n + 1 => feistelRound k[keyIndex d n] (halvesAfterRounds block k d n)

/-- The recombination `(rhs << 32) | lhs` and the final permutation (R193, R197). -/
def finishHalves (lr : Half × Half) : Word := fpf (lr.2 ++ lr.1)

/-- `transform(block, K, direction)` (R193). -/
def transform (block : Word) (k : Vector RoundKey 16) (d : Direction) : Word :=
  finishHalves (halvesAfterRounds block k d 16)

/-- `encipher(b, k)` (R194). -/
def encipher (b k : Word) : Word := transform b (keySchedule k) .forward

/-- `decipher(b, k)` (R194). -/
def decipher (b k : Word) : Word := transform b (keySchedule k) .reverse

/-- FLOAD(d)'s pseudocode (R195). -/
def feistelLoad (d : Direction) (s : State) : State :=
  { s with l := (splitHalves (ipf s.block)).1, r := (splitHalves (ipf s.block)).2,
           rnd := 0, dir := d, fLoaded := true }

/-- Round key j is ready: emitted by the current schedule (10_state.md R46). -/
def keyReady (s : State) (j : Fin 16) : Bool := s.ksLoaded && decide (j.val < s.ksRound.val)

/-- The working branch of FROUND, at a RND i below 16 (R196). -/
def roundStep (i : Fin 16) (s : State) : State :=
  { s with
    l := (feistelRound s.rk[keyIndex s.dir i.val] (s.l, s.r)).1
    r := (feistelRound s.rk[keyIndex s.dir i.val] (s.l, s.r)).2
    rnd := i.succ }

/-- FROUND's pseudocode, its errors in priority order (R196, R242). -/
def feistelNext (s : State) : CmdResult :=
  if s.fLoaded = false then .error .fNotLoaded
  else if h : s.rnd.val < 16 then
    if keyReady s (keyIndex s.dir s.rnd.val) then .ok (roundStep ⟨s.rnd.val, h⟩ s)
    else .error .rkNotReady
  else .error .roundsDone

/-- FFINISH's pseudocode (R197). -/
def feistelFinish (s : State) : CmdResult :=
  if s.fLoaded = false then .error .fNotLoaded
  else if s.rnd.val ≠ 16 then .error .roundsPending
  else .ok { s with result := finishHalves (s.l, s.r) }

/-- The one micro-sequence of ENC and DEC, which differ in the direction alone (R198, R199). -/
def cipherBlock (d : Direction) (s : State) : CmdResult := do
  let t ← repeatCmd 16 ksNext (ksLoad s)
  let u ← repeatCmd 16 feistelNext (feistelLoad d t)
  feistelFinish u

/-- FLOAD.F (R195). No exception. -/
def execFloadF (s : State) : Host.Outcome State Fault Refusal := complete s (.ok (feistelLoad .forward s))

/-- FLOAD.R (R195). No exception. -/
def execFloadR (s : State) : Host.Outcome State Fault Refusal := complete s (.ok (feistelLoad .reverse s))

/-- FROUND (R196, R236, R237, R238). -/
def execFround (s : State) : Host.Outcome State Fault Refusal := complete s (feistelNext s)

/-- FFINISH (R197, R236, R239). -/
def execFfinish (s : State) : Host.Outcome State Fault Refusal := complete s (feistelFinish s)

/-- ENC (R198). -/
def execEnc (s : State) : Host.Outcome State Fault Refusal := complete s (cipherBlock .forward s)

/-- DEC (R199). -/
def execDec (s : State) : Host.Outcome State Fault Refusal := complete s (cipherBlock .reverse s)

end Sys2Proof.Machine
end

