-- ==== Sys2Proof/Syntax.lean ====
section
/-! DEFINITION. The commands of the block, one constructor per row of spec/opcode_table.json
(30_encoding.md R102). No command has an operand: its sources and destinations are fixed registers (R106),
and the direction bit is part of the row (R104). -/

namespace Sys2Proof

/-- A command of the block. -/
inductive Instr where
  /-- ENC: encipher BLOCK under KEY (R198). -/
  | enc
  /-- DEC: decipher BLOCK under KEY (R199). -/
  | dec
  /-- KSLOAD: construct a key-schedule instance from KEY (R150). -/
  | ksload
  /-- KSNEXT: advance the key schedule and emit one round key (R151). -/
  | ksnext
  /-- FLOAD.F: load the Feistel halves from IP(BLOCK), forward key order (R195). -/
  | floadF
  /-- FLOAD.R: load the Feistel halves from IP(BLOCK), reverse key order (R195). -/
  | floadR
  /-- FROUND: one Feistel round (R196). -/
  | fround
  /-- FFINISH: recombine the halves and apply FP (R197). -/
  | ffinish
  deriving DecidableEq, Repr

end Sys2Proof
end

