-- ==== Sys2Proof/Machine/Dispatch.lean ====
section
/-! DEFINITION. The meaning of each command, one arm per row of the opcode map (30_encoding.md R102). -/

namespace Sys2Proof.Machine

def exec (i : Instr) (s : State) : Host.Outcome State Fault Refusal :=
  match i with
  | .enc => Sys2Proof.Machine.execEnc s
  | .dec => Sys2Proof.Machine.execDec s
  | .ksload => Sys2Proof.Machine.execKsload s
  | .ksnext => Sys2Proof.Machine.execKsnext s
  | .floadF => Sys2Proof.Machine.execFloadF s
  | .floadR => Sys2Proof.Machine.execFloadR s
  | .fround => Sys2Proof.Machine.execFround s
  | .ffinish => Sys2Proof.Machine.execFfinish s

end Sys2Proof.Machine
end

