-- ==== Sys2Proof/WellFormed.lean ====
section
/-! DEFINITION. Which CMDW field triples are legal commands (30_encoding.md R100, R101, R105), and the
triple of every command (R102). A command has no operand, so every `Instr` is well formed; the checks bite on
the raw fields a host may write. -/

namespace Sys2Proof

/-- The fields of the one command format, CMDW (R100). -/
structure CmdFields where
  /-- RSVD, bits [63:5]. -/
  rsvd : BitVec 59
  /-- DIR, bit [4]. -/
  dir : BitVec 1
  /-- OP, bits [3:0]. -/
  op : BitVec 4
  deriving DecidableEq, Repr

/-- The reserved bits are 0 (R100). -/
def CmdFields.reservedZero (f : CmdFields) : Bool := f.rsvd == 0

/-- OP names an operation: neither 0x0 nor 0x7 … 0xF (R105). -/
def CmdFields.opAssigned (f : CmdFields) : Bool := 1 ≤ f.op.toNat && f.op.toNat ≤ 6

/-- DIR is 0, or OP is one of the two operations that take it (R104). -/
def CmdFields.dirTaken (f : CmdFields) : Bool := f.dir == 0 || f.op == 0x1 || f.op == 0x4

/-- A legal field triple (R101). -/
def CmdFields.wf (f : CmdFields) : Bool := f.reservedZero && f.opAssigned && f.dirTaken

/-- The OP and DIR columns of the opcode map (R102). -/
def Instr.fields : Instr → CmdFields
  | .enc => ⟨0, 0, 0x1⟩
  | .dec => ⟨0, 1, 0x1⟩
  | .ksload => ⟨0, 0, 0x2⟩
  | .ksnext => ⟨0, 0, 0x3⟩
  | .floadF => ⟨0, 0, 0x4⟩
  | .floadR => ⟨0, 1, 0x4⟩
  | .fround => ⟨0, 0, 0x5⟩
  | .ffinish => ⟨0, 0, 0x6⟩

/-- A well-formed command: its fields are legal. -/
def Instr.wf (i : Instr) : Bool := i.fields.wf

end Sys2Proof
end

