-- ==== Sys2Proof/Decode.lean ====
section
/-! DEFINITION. Decoding a command word and encoding a command (30_encoding.md R100-R102, R105).
Decoding reads only the word, never the block's state (R101). -/

namespace Sys2Proof

/-- Why a word is no command. All of them raise ILLEGAL_CMD (R105, R234). -/
inductive Reject where
  /-- Some bit of [63:5] is set. -/
  | reservedBits
  /-- OP is 0x0 or 0x7 … 0xF. -/
  | unassignedOp
  /-- DIR = 1 with an OP that takes no direction. -/
  | dirNotTaken
  deriving DecidableEq, Repr

/-- OP, bits [3:0] of a command word (R100). -/
def opOf (w : Word) : BitVec 4 := w.extractLsb' 0 4

/-- DIR, bit [4] of a command word (R100). -/
def dirOf (w : Word) : BitVec 1 := w.extractLsb' 4 1

/-- RSVD, bits [63:5] of a command word (R100). -/
def rsvdOf (w : Word) : BitVec 59 := w.extractLsb' 5 59

/-- The three fields of a command word (R100). -/
def cmdFields (w : Word) : CmdFields := ⟨rsvdOf w, dirOf w, opOf w⟩

/-- The case distinction of `execute_command` on (OP, DIR) (R101). -/
def decodeOpDir (op : BitVec 4) (dir : BitVec 1) : Except Reject Instr :=
  if op = 0x1 then .ok (if dir = 0 then .enc else .dec)
  else if op = 0x4 then .ok (if dir = 0 then .floadF else .floadR)
  else if op = 0x2 then (if dir = 0 then .ok .ksload else .error .dirNotTaken)
  else if op = 0x3 then (if dir = 0 then .ok .ksnext else .error .dirNotTaken)
  else if op = 0x5 then (if dir = 0 then .ok .fround else .error .dirNotTaken)
  else if op = 0x6 then (if dir = 0 then .ok .ffinish else .error .dirNotTaken)
  else .error .unassignedOp

/-- The decoder of CMD words (R101). -/
def decode (w : Word) : Except Reject Instr :=
  if rsvdOf w ≠ 0 then .error .reservedBits else decodeOpDir (opOf w) (dirOf w)

/-- The word of a command, the match column of the opcode map (R102). -/
def encode : Instr → Word
  | .enc => 0x0000000000000001
  | .dec => 0x0000000000000011
  | .ksload => 0x0000000000000002
  | .ksnext => 0x0000000000000003
  | .floadF => 0x0000000000000004
  | .floadR => 0x0000000000000014
  | .fround => 0x0000000000000005
  | .ffinish => 0x0000000000000006

/-- The CMD word that a table row's `nbits` low bits `w` make, every bit above them 0. -/
def tableWord (nbits w : Nat) : Word := BitVec.ofNat 64 (w % 2 ^ nbits)

/-- The command the decoder reads from a table row's bits. A command is exactly one 64-bit word (R100, R107), so
a longer row is none (log entry 10). -/
def decodeTableWord (nbits w : Nat) : Option Instr :=
  if 64 < nbits then none
  else match decode (tableWord nbits w) with
    | .ok i => some i
    | .error _ => none

end Sys2Proof
end

