-- ==== Sys2Proof/Machine/Host.lean ====
section
/-! DEFINITION. Taking the next host transaction (20_memory.md R70, R71, R76, R81). A write to CMD is the block's
instruction fetch: it names the command to run. -/

namespace Sys2Proof.Machine

/-- What the next transaction asks for. -/
inductive Fetched where
  /-- No transaction has been issued: the block waits (R263). -/
  | idle
  /-- The transaction is complete, in this state. -/
  | done (s : State)
  /-- A CMD write of a legal word: this command is to run in this state (R81, R101). -/
  | command (i : Instr) (s : State)
  deriving DecidableEq, Repr

/-- A HostWrite of `w` to CMD: the command `w` decodes to, or ILLEGAL_CMD (R81, R101, R234). -/
def fetchCommand (w : Word) (s : State) : Fetched :=
  match decode w with
  | .ok i => .command i s
  | .error _ => .done (raiseError .illegalCmd s)

/-- One transaction, in the state after it left the queue (R70, R71). -/
def fetchTxn (t : HostTxn) (s : State) : Fetched :=
  match t with
  | .read i => .done (recordRead i s)
  | .write i v => if regAt i = some .cmd then fetchCommand v s else .done (writeReg i v s)
  | .reset => .done (resetBlock s)

/-- The oldest pending transaction, taken from the queue (R76, R82). -/
def fetch (s : State) : Fetched :=
  match s.pending with
  | [] => .idle
  | t :: _ => fetchTxn t (popTxn s)

/-- The queue with a CMD write of a table row's word in front (30_encoding.md R110). -/
def placeCommand (s : State) (nbits w : Nat) : State :=
  { s with pending := .write 0x02 (tableWord nbits w) :: s.pending }

end Sys2Proof.Machine
end

