-- ==== Sys2Proof/Machine/Step.lean ====
section
/-! DEFINITION. One step of the machine is one host transaction, whole and atomic (20_memory.md R76; 70_reset_and_hazards.md
R273). With no transaction issued the block waits and the step changes nothing (R263). -/

namespace Sys2Proof.Machine

/-- One transaction. -/
def step (s : State) : Host.Outcome State Fault Refusal :=
  match fetch s with
  | .idle => .next s
  | .done t => .next t
  | .command i t => exec i t

/-- The state with a CMD write of a table row's word as the next transaction, so that the next step runs it
(log entry 1). -/
def State.withFetchWord (s : State) (nbits w : Nat) : State := placeCommand s nbits w

end Sys2Proof.Machine
end

