-- ==== Sys2Proof/Machine/Script.lean ====
section
/-! DEFINITION. Command scripts (30_encoding.md R108) and pseudo-instructions (R109): their statements, the bounds their
immediates must keep, the host transactions they expand into (R110), and the reader of their text. A script has
no semantics beyond its expansion (92_eei_decisions.md D28). -/

namespace Sys2Proof.Machine

/-- `reg` of the script language (R108). -/
inductive RegRef where
  /-- A register by name. -/
  | named (reg : Reg)
  /-- '@' imm: a raw register index. -/
  | raw (imm : Nat)
  deriving DecidableEq, Repr

/-- A script statement (R108) or pseudo-instruction (R109). -/
inductive Stmt where
  /-- WRITE reg, imm. -/
  | write (reg : RegRef) (imm : Nat)
  /-- READ reg. -/
  | read (reg : RegRef)
  /-- RESET. -/
  | reset
  /-- A command by its mnemonic. -/
  | cmd (i : Instr)
  /-- CMD imm: a raw command word. -/
  | rawCmd (imm : Nat)
  /-- ENCIPHER k, b. -/
  | encipher (k b : Nat)
  /-- DECIPHER k, b. -/
  | decipher (k b : Nat)
  /-- KSALL. -/
  | ksAll
  /-- ROUNDS. -/
  | rounds
  /-- REP n, cmd. -/
  | rep (n : Nat) (i : Instr)
  deriving DecidableEq, Repr

/-- `imm` is at most 64 bits (R108). -/
def immOk (v : Nat) : Bool := v < 2 ^ 64

/-- After '@', `imm` is at most 8 bits (R108). -/
def RegRef.wf : RegRef → Bool
  | .named _ => true
  | .raw imm => imm < 2 ^ 8

/-- A statement whose immediates fit and whose repeat count is 1 to 64 (R108, R109). -/
def Stmt.wf : Stmt → Bool
  | .write reg imm => reg.wf && immOk imm
  | .read reg => reg.wf
  | .rawCmd imm => immOk imm
  | .encipher k b => immOk k && immOk b
  | .decipher k b => immOk k && immOk b
  | .rep n _ => 1 ≤ n && n ≤ 64
  | .reset => true
  | .cmd _ => true
  | .ksAll => true
  | .rounds => true

/-- `index(reg)` (R108). -/
def RegRef.toIndex : RegRef → RegIndex
  | .named reg => reg.index
  | .raw imm => BitVec.ofNat 8 imm

/-- The transaction of a command: HostWrite(0x02, word(cmd)) (R108). -/
def cmdTxn (i : Instr) : HostTxn := .write 0x02 (encode i)

/-- WRITE KEY, k ; WRITE BLOCK, b ; cmd ; READ RESULT (R109). -/
def wholeBlock (k b : Nat) (i : Instr) : List HostTxn :=
  [.write 0x00 (BitVec.ofNat 64 k), .write 0x01 (BitVec.ofNat 64 b), cmdTxn i, .read 0x04]

/-- The host transactions of a well-formed statement (R108, R109). -/
def Stmt.expand : Stmt → List HostTxn
  | .write reg imm => [.write reg.toIndex (BitVec.ofNat 64 imm)]
  | .read reg => [.read reg.toIndex]
  | .reset => [.reset]
  | .cmd i => [cmdTxn i]
  | .rawCmd imm => [.write 0x02 (BitVec.ofNat 64 imm)]
  | .encipher k b => wholeBlock k b .enc
  | .decipher k b => wholeBlock k b .dec
  | .ksAll => cmdTxn .ksload :: List.replicate 16 (cmdTxn .ksnext)
  | .rounds => List.replicate 16 (cmdTxn .fround)
  | .rep n i => List.replicate n (cmdTxn i)

/-- The transactions of a script, none where a statement breaks a bound. -/
def expandScript (p : List Stmt) : Option (List HostTxn) :=
  if p.all Stmt.wf then some (p.flatMap Stmt.expand) else none

/-! The reader of script text (R108). The rule fixes the tokens; that blanks separate them and that hexadecimal
digits may be of either case is the model's choice (log entry 11). -/

/-- The word read so far, which stands in reverse, before the words that follow. -/
def endWord (cur : List Char) (rest : List (List Char)) : List (List Char) :=
  if cur.isEmpty then rest else cur.reverse :: rest

/-- The words of one line; a comma is a word of its own and `#` starts a comment (R108). -/
def lineWords : List Char → List Char → List (List Char)
  | [], cur => endWord cur []
  | ch :: rest, cur =>
    if ch = '#' then endWord cur []
    else if ch = ' ' ∨ ch = '\t' then endWord cur (lineWords rest [])
    else if ch = ',' then endWord cur ([','] :: lineWords rest [])
    else lineWords rest (ch :: cur)

/-- The value of a digit below `base`. -/
def digitValue (base : Nat) (ch : Char) : Option Nat :=
  let v := if '0' ≤ ch ∧ ch ≤ '9' then ch.toNat - '0'.toNat
    else if 'a' ≤ ch ∧ ch ≤ 'f' then ch.toNat - 'a'.toNat + 10
    else if 'A' ≤ ch ∧ ch ≤ 'F' then ch.toNat - 'A'.toNat + 10
    else base
  if v < base then some v else none

/-- The number a run of digits writes, at least one digit. -/
def numberOf (base : Nat) (ds : List Char) : Option Nat :=
  if ds.isEmpty then none
  else ds.foldlM (fun acc ch => (digitValue base ch).map (acc * base + ·)) 0

/-- `imm := '0x' hex-digits` (R108). -/
def parseImm : List Char → Option Nat
  | '0' :: 'x' :: ds => numberOf 16 ds
  | _ => none

/-- The register names of R108. -/
def regNames : List (String × Reg) :=
  [("KEY", .key), ("BLOCK", .block), ("CMD", .cmd), ("STATUS", .status), ("RESULT", .result),
   ("KOUT", .kout), ("CD", .cd), ("LR", .lr),
   ("RK0", .rk 0), ("RK1", .rk 1), ("RK2", .rk 2), ("RK3", .rk 3), ("RK4", .rk 4), ("RK5", .rk 5),
   ("RK6", .rk 6), ("RK7", .rk 7), ("RK8", .rk 8), ("RK9", .rk 9), ("RK10", .rk 10),
   ("RK11", .rk 11), ("RK12", .rk 12), ("RK13", .rk 13), ("RK14", .rk 14), ("RK15", .rk 15)]

/-- The mnemonics of R102 and R108. -/
def mnemonics : List (String × Instr) :=
  [("ENC", .enc), ("DEC", .dec), ("KSLOAD", .ksload), ("KSNEXT", .ksnext), ("FLOAD.F", .floadF),
   ("FLOAD.R", .floadR), ("FROUND", .fround), ("FFINISH", .ffinish)]

/-- The entry a word names. -/
def lookupWord {α : Type} (table : List (String × α)) (word : List Char) : Option α :=
  (table.find? fun e => e.1.toList == word).map Prod.snd

/-- `reg` (R108). -/
def parseReg : List Char → Option RegRef
  | '@' :: imm => (parseImm imm).map .raw
  | word => (lookupWord regNames word).map .named

/-- One statement from its words; none where they are no statement or a bound is broken (R108, R109). -/
def parseWords (ws : List (List Char)) : Option Stmt :=
  let st : Option Stmt :=
    match ws with
    | [w] =>
      if w = "RESET".toList then some .reset
      else if w = "KSALL".toList then some .ksAll
      else if w = "ROUNDS".toList then some .rounds
      else (lookupWord mnemonics w).map .cmd
    | [w, a] =>
      if w = "READ".toList then (parseReg a).map .read
      else if w = "CMD".toList then (parseImm a).map .rawCmd
      else none
    | [w, a, [','], b] =>
      if w = "WRITE".toList then (parseReg a).bind fun reg => (parseImm b).map (.write reg)
      else if w = "ENCIPHER".toList then (parseImm a).bind fun k => (parseImm b).map (.encipher k)
      else if w = "DECIPHER".toList then (parseImm a).bind fun k => (parseImm b).map (.decipher k)
      else if w = "REP".toList then
        (numberOf 10 a).bind fun n => (lookupWord mnemonics b).map (.rep n)
      else none
    | _ => none
  st.filter Stmt.wf

/-- The statements of a script, one a line; blank lines and comments give none (R108). -/
def parseScript : List String → Option (List Stmt)
  | [] => some []
  | line :: rest =>
    match lineWords line.toList [] with
    | [] => parseScript rest
    | ws => (parseWords ws).bind fun st => (parseScript rest).map (st :: ·)

end Sys2Proof.Machine
end

