-- ==== Sys2Proof/Safety.lean ====
section
/-! DEFINITION. What claims call a good state and a safe run: the invariants of 10_state.md R45 (with R34-R39, R44,
R46), and a run that ends with no error recorded (60_exceptions.md R254). -/

namespace Sys2Proof.Machine

/-- No interface error has occurred since reset. The spec's guidance is to treat ERR = 1 as a fault bit (R254). -/
def State.errorFree (s : State) : Bool := !s.err

/-- The key-schedule state is the one the current KEY gives after KS_ROUND keys, or is all zero when no schedule
instance exists (R34, R35, R38, R45, R46). A KEY write clears the schedule (R79), so the KEY that the last KSLOAD
read is the current one while KS_LOADED = 1 (log entry 8). -/
structure State.KeyScheduleInv (s : State) : Prop where
  /-- KS_LOADED = 0 implies KS_ROUND = 0, EOS = 0, C = D = 0 (R45). -/
  unloaded : s.ksLoaded = false → s.ksRound = 0 ∧ s.eos = false ∧ s.c = 0 ∧ s.d = 0
  /-- KS_LOADED = 1 implies C and D are C0 and D0 rotated by σ(KS_ROUND) (R45). -/
  rotated : s.ksLoaded = true → s.c = rotl28 (pc1 s.key).1 (totalShift s.ksRound.val)
    ∧ s.d = rotl28 (pc1 s.key).2 (totalShift s.ksRound.val)
  /-- A ready entry holds the schedule's key, any other holds 0 (R46). -/
  roundKeys : ∀ j : Fin 16, s.rk[j] = if j.val < s.ksRound.val then (keySchedule s.key)[j] else 0
  /-- KOUT is RK[KS_ROUND - 1], or 0 when KS_ROUND = 0 (R38). -/
  emitted : (s.ksRound = 0 → s.kout = 0) ∧ ∀ j : Fin 16, s.ksRound.val = j.val + 1 → s.kout = s.rk[j]
  /-- EOS = 1 implies KS_LOADED = 1 and KS_ROUND = 16 (R35). -/
  ended : s.eos = true → s.ksLoaded = true ∧ s.ksRound.val = 16

/-- F_LOADED = 0 implies RND = 0, DIR = 0 and L = R = 0 (R36). -/
def State.FeistelInv (s : State) : Prop :=
  s.fLoaded = false → s.rnd = 0 ∧ s.dir = .forward ∧ s.l = 0 ∧ s.r = 0

/-- ERR = 0 exactly when ERRCODE = 0, and ERRCODE is never above 8 (R44, R233, R45). -/
def State.ErrorInv (s : State) : Prop :=
  (s.err = false ↔ s.errCode = 0) ∧ s.errCode.toNat ≤ 8

/-- The invariants that hold after every transaction (R45). -/
structure State.Inv (s : State) : Prop where
  /-- The key-schedule part. -/
  keySchedule : s.KeyScheduleInv
  /-- The Feistel-driver part. -/
  feistel : s.FeistelInv
  /-- The error part. -/
  errors : s.ErrorInv

/-- n transactions from s end in t with no error recorded (R254). -/
def SafeRun (n : Nat) (s t : State) : Prop :=
  Sys2Proof.core.run n s = .next t ∧ t.errorFree = true

/-- A sequence of commands, each one CMD write, run one after the other (R109). -/
def runCommands : List Instr → State → Host.Outcome State Fault Refusal
  | [], s => .next s
  | i :: is, s =>
    match exec i s with
    | .next t => runCommands is t
    | .fault e => .fault e
    | .refused e => .refused e

end Sys2Proof.Machine
end

