-- ==== Sys2Proof/Certificates/Slice0/Obligations.lean ====
section
/-! DEFINITION. The statements for the provers, each from a numbered rule of the spec.
`pending` and `replies` are the model's own picture of the host port (log entries 1 and 2): that a transaction is
taken from `pending` says that it is done, and what is put into `replies` is what HostRead returns. -/

namespace Sys2Proof.Statements
open Sys2Proof.Machine

/-- What `raise Error(code)` leaves, written out from 60_exceptions.md R232: the first error since reset is recorded,
nothing else changes. -/
def withError (code : BitVec 4) (s : State) : State :=
  { s with err := true, errCode := if s.err then s.errCode else code }

/-- What `clear_schedule()` leaves, written out from 20_memory.md R79. -/
def scheduleCleared (s : State) : State :=
  { s with c := 0, d := 0, kout := 0, rk := Vector.replicate 16 0,
           ksLoaded := false, ksRound := 0, eos := false }

/-- The key-schedule registers after KSLOAD and 16 KSNEXTs (41_key_schedule.md R147, R152). -/
def scheduleComplete (s : State) : State :=
  { s with c := permute s.key pc1C, d := permute s.key pc1D, rk := keySchedule s.key,
           kout := roundKey s.key 15, ksLoaded := true, ksRound := 16, eos := false }

/-- The command the next transaction runs, if it is a CMD write of a legal word. -/
def headCommand (s : State) : Option Instr :=
  match s.pending with
  | .write i w :: _ => if i = 0x02 then (decode w).toOption else none
  | _ => none

/-- The next transaction is HostReset. -/
def headIsReset (s : State) : Prop := s.pending.head? = some .reset

/-- The next transaction is a HostWrite to KEY. -/
def headWritesKey (s : State) : Prop := ∃ v, s.pending.head? = some (.write 0x00 v)

/-- Every register and field of 10_state.md R30 and R33 at the reset value its table gives. -/
def everyRegisterZero (t : State) : Prop :=
  t.key = 0 ∧ t.block = 0 ∧ t.result = 0 ∧ t.kout = 0 ∧ t.c = 0 ∧ t.d = 0 ∧ t.l = 0 ∧ t.r = 0 ∧
  (∀ j : Fin 16, t.rk[j] = 0) ∧ t.ksRound = 0 ∧ t.ksLoaded = false ∧ t.eos = false ∧ t.rnd = 0 ∧
  t.fLoaded = false ∧ t.dir = .forward ∧ t.err = false ∧ t.errCode = 0

/-- How many bits of a value are set. -/
def bitCount {w : Nat} (x : BitVec w) : Nat := (List.finRange w).countP fun i => x.getLsbD i.val

/-- KSALL as commands (30_encoding.md R109). -/
def ksAllCommands : List Instr := .ksload :: List.replicate 16 .ksnext

/-- KSALL ; FLOAD ; ROUNDS ; FFINISH as commands (30_encoding.md R109). -/
def stepSequence (load : Instr) : List Instr :=
  ksAllCommands ++ [load] ++ List.replicate 16 .fround ++ [.ffinish]

/-- KSLOAD ; FLOAD.F ; 16 × (KSNEXT ; FROUND) ; FFINISH as commands (43_cipher_driver.md R202). -/
def lazySequence : List Instr :=
  [.ksload, .floadF] ++ (List.replicate 16 [.ksnext, .fround]).flatten ++ [.ffinish]

end Sys2Proof.Statements

open Sys2Proof Sys2Proof.Machine Sys2Proof.Statements

/-! ### Encoding -/

/-- R102: the opcode map is complete, and each row's word is the only legal word for its command. -/
def Obligations.DecodeAcceptsExactlyTheOpcodeMap : Prop :=
  ∀ (w : Word) (i : Instr), decode w = .ok i ↔ (w, i) ∈
    ([(0x0000000000000001, .enc), (0x0000000000000011, .dec), (0x0000000000000002, .ksload),
      (0x0000000000000003, .ksnext), (0x0000000000000004, .floadF), (0x0000000000000014, .floadR),
      (0x0000000000000005, .fround), (0x0000000000000006, .ffinish)] : List (Word × Instr))

/-- R101, R102: decoding and encoding are inverse to each other, and every command is well formed. -/
def Obligations.EncodeAndDecodeAreInverse : Prop :=
  (∀ i : Instr, i.wf = true ∧ cmdFields (encode i) = i.fields ∧ decode (encode i) = .ok i) ∧
  ∀ (w : Word) (i : Instr), decode w = .ok i → encode i = w

/-- R101, R104, R105: a word is decoded exactly when its three fields pass the format's checks. -/
def Obligations.DecodeAcceptsExactlyTheLegalFields : Prop :=
  ∀ w : Word, (∃ i, decode w = .ok i) ↔ (cmdFields w).wf = true

/-- R105, R234: every word outside the opcode map raises ILLEGAL_CMD and has no other effect. -/
def Obligations.IllegalWordsRaiseIllegalCmd : Prop :=
  ∀ (s : State) (w : Word) (rest : List HostTxn), s.pending = .write 0x02 w :: rest →
    (w.extractLsb' 5 59 ≠ 0 ∨ w.extractLsb' 0 4 = 0x0 ∨ 0x7 ≤ (w.extractLsb' 0 4).toNat ∨
      (w.extractLsb' 4 1 = 1 ∧ (w.extractLsb' 0 4 = 0x2 ∨ w.extractLsb' 0 4 = 0x3 ∨
        w.extractLsb' 0 4 = 0x5 ∨ w.extractLsb' 0 4 = 0x6))) →
    step s = .next (withError 1 { s with pending := rest })

/-- 95_test_vectors.md §4: some words of the encoding vectors decode as listed. -/
def Obligations.ListedWordsDecodeAsListed : Prop :=
  decode 0x0000000000000001 = .ok .enc ∧ decode 0x0000000000000011 = .ok .dec ∧
  decode 0x0000000000000003 = .ok .ksnext ∧ decode 0x0000000000000014 = .ok .floadR ∧
  decode 0x0000000000000006 = .ok .ffinish ∧ decode 0x0000000000000000 = .error .unassignedOp ∧
  decode 0x0000000000000015 = .error .dirNotTaken ∧ decode 0x0000000000000021 = .error .reservedBits ∧
  decode 0x8000000000000001 = .error .reservedBits

/-! ### The host interface -/

/-- R81: a HostWrite of w to CMD decodes w and runs the command of its row; any other word is ILLEGAL_CMD. -/
def Obligations.StepRunsTheDecodedCommand : Prop :=
  ∀ (s : State) (w : Word) (rest : List HostTxn), s.pending = .write 0x02 w :: rest →
    step s = match decode w with
      | .ok i => exec i { s with pending := rest }
      | .error _ => .next (withError 1 { s with pending := rest })

/-- The model's own placing of a command: the next step runs exactly the word that was placed (log entry 1). -/
def Obligations.PlacedWordRunsNext : Prop :=
  ∀ (s : State) (w : Word), step (s.withFetchWord 64 w.toNat) = match decode w with
    | .ok i => exec i s
    | .error _ => .next (withError 1 s)

/-- R70, R78: the two register transactions, by index. -/
def Obligations.HostTransactionsFollowTheRegisterMap : Prop :=
  ∀ (s : State) (i : RegIndex) (v : Word) (rest : List HostTxn),
    (s.pending = .read i :: rest → step s = .next { s with
      pending := rest
      replies := s.replies ++ [⟨i,
        if i = 0x00 then s.key
        else if i = 0x01 then s.block
        else if i = 0x02 then 0
        else if i = 0x03 then statusWord s
        else if i = 0x04 then s.result
        else if i = 0x05 then s.kout.setWidth 64
        else if i = 0x06 then (s.c ++ s.d).setWidth 64
        else if i = 0x07 then s.l ++ s.r
        else if 0x10 ≤ i.toNat ∧ i.toNat ≤ 0x1F then s.rk[Fin.ofNat 16 (i.toNat - 0x10)].setWidth 64
        else 0⟩] }) ∧
    (s.pending = .write i v :: rest → step s =
      if i = 0x00 then .next (scheduleCleared { s with pending := rest, key := v })
      else if i = 0x01 then .next { s with pending := rest, block := v }
      else if i = 0x02 then match decode v with
        | .ok cmd => exec cmd { s with pending := rest }
        | .error _ => .next (withError 1 { s with pending := rest })
      else if (0x03 ≤ i.toNat ∧ i.toNat ≤ 0x07) ∨ (0x10 ≤ i.toNat ∧ i.toNat ≤ 0x1F) then
        .next (withError 7 { s with pending := rest })
      else .next (withError 8 { s with pending := rest }))

/-- R77: reads are idempotent and without side effect; CMD and unmapped indices read 0 and raise no error. -/
def Obligations.ReadsAreIdempotent : Prop :=
  ∀ (s : State) (i : RegIndex) (rest : List HostTxn), s.pending = .read i :: .read i :: rest →
    ∃ v : Word, core.run 2 s = .next { s with pending := rest, replies := s.replies ++ [⟨i, v⟩, ⟨i, v⟩] } ∧
      (i = 0x02 ∨ (0x08 ≤ i.toNat ∧ i.toNat ≤ 0x0F) ∨ 0x20 ≤ i.toNat → v = 0)

/-- R33: every field of STATUS at its place, every reserved bit 0. -/
def Obligations.StatusFieldsAtTheirPlaces : Prop :=
  ∀ s : State,
    ((statusWord s).extractLsb' 0 5).toNat = s.ksRound.val ∧
    (statusWord s).getLsbD 5 = s.ksLoaded ∧
    (statusWord s).getLsbD 6 = s.eos ∧
    (statusWord s).getLsbD 7 = false ∧
    ((statusWord s).extractLsb' 8 5).toNat = s.rnd.val ∧
    (statusWord s).getLsbD 13 = s.fLoaded ∧
    ((statusWord s).getLsbD 14 = true ↔ s.dir = .reverse) ∧
    (statusWord s).getLsbD 15 = false ∧
    (statusWord s).getLsbD 16 = s.err ∧
    (statusWord s).extractLsb' 17 3 = 0 ∧
    (statusWord s).extractLsb' 20 4 = s.errCode ∧
    (statusWord s).extractLsb' 24 40 = 0

/-- R30: the index map of the registers, both ways, and the unmapped indices. -/
def Obligations.RegisterMapIsOneToOne : Prop :=
  (∀ reg : Reg, regAt reg.index = some reg) ∧
  (∀ (i : RegIndex) (reg : Reg), regAt i = some reg → reg.index = i) ∧
  ∀ i : RegIndex, regAt i = none ↔ (0x08 ≤ i.toNat ∧ i.toNat ≤ 0x0F) ∨ 0x20 ≤ i.toNat

/-- R79, R267: a KEY write clears the schedule; until a KSLOAD, KSNEXT raises KS_NOT_LOADED and a round
raises RK_NOT_READY. -/
def Obligations.KeyWriteDiscardsTheSchedule : Prop :=
  ∀ (s : State) (v : Word) (rest : List HostTxn), s.pending = .write 0x00 v :: rest →
    ∃ t, step s = .next t ∧ t = scheduleCleared { s with pending := rest, key := v } ∧
      exec .ksnext t = .next (withError 2 t) ∧
      (t.fLoaded = true → t.rnd.val < 16 → exec .fround t = .next (withError 4 t))

/-- R80, R268: a BLOCK write changes BLOCK alone, and no step command but FLOAD sees it. -/
def Obligations.BlockWriteDoesNotReachRunningRounds : Prop :=
  (∀ (s : State) (v : Word) (rest : List HostTxn), s.pending = .write 0x01 v :: rest →
    step s = .next { s with pending := rest, block := v }) ∧
  ∀ i ∈ ([.ksload, .ksnext, .fround, .ffinish] : List Instr), ∀ (s : State) (v : Word),
    ∃ t, exec i s = .next t ∧ exec i { s with block := v } = .next { t with block := v }

/-- R72: a block seen as 8 bytes is big-endian, and within a byte the most significant bit is the lowest-numbered
DES bit. -/
def Obligations.BlockBytesAreBigEndian : Prop :=
  (∀ v : Word, blockOfBytes (bytesOfBlock v) = v) ∧
  (∀ (b : Vector (BitVec 8) 8) (j : Fin 8), byteOf (blockOfBytes b) j = b[j]) ∧
  (∀ (v : Word) (j n : Fin 8), (byteOf v j).getMsbD n.val = desBit v (8 * j.val + n.val + 1)) ∧
  blockOfBytes #v[0x01, 0x23, 0x45, 0x67, 0x89, 0xAB, 0xCD, 0xEF] = 0x0123456789ABCDEF

/-- R71, R260, R262: HostReset and power-on leave every register and field 0, and every index then reads 0. -/
def Obligations.ResetLeavesEveryRegisterZero : Prop :=
  (∀ (s : State) (rest : List HostTxn), s.pending = .reset :: rest → ∃ t, step s = .next t ∧
    everyRegisterZero t ∧ ∀ i : RegIndex, readValue i t = 0) ∧
  everyRegisterZero State.reset ∧ ∀ i : RegIndex, readValue i State.reset = 0

/-- R263: with no transaction issued the block waits. -/
def Obligations.WithoutTransactionNothingChanges : Prop :=
  ∀ s : State, s.pending = [] → step s = .next s

/-! ### Errors and the whole machine -/

/-- R232, R244, R254: no transaction stops the block; every step answers a next state. The clause about `pending` is
the model's choice (log entry 1, its picture of R76 and R82): a step takes exactly the oldest transaction from the
queue, and an empty queue stays empty. -/
def Obligations.EveryStepAnswersNext : Prop :=
  ∀ s : State, ∃ t, step s = .next t ∧ t.pending = s.pending.tail

/-- R44: ERR and ERRCODE are sticky; only a reset clears them. -/
def Obligations.FirstErrorIsKept : Prop :=
  ∀ s t : State, step s = .next t → ¬ headIsReset s → s.err = true → t.err = true ∧ t.errCode = s.errCode

/-- R232: errors are precise. A transaction that records an error changes nothing but ERR and ERRCODE, and the code
is one of 1 to 8. -/
def Obligations.ErrorsArePrecise : Prop :=
  ∀ s t : State, step s = .next t → ¬ headIsReset s → t.err ≠ s.err ∨ t.errCode ≠ s.errCode →
    s.err = false ∧ 1 ≤ t.errCode.toNat ∧ t.errCode.toNat ≤ 8 ∧
      t = withError t.errCode { s with pending := s.pending.tail }

/-- R31, R32: only the host writes KEY and BLOCK (a HostWrite, or a HostReset). -/
def Obligations.OnlyTheHostWritesKeyAndBlock : Prop :=
  ∀ s t : State, step s = .next t →
    (t.key ≠ s.key → s.pending.head? = some (.write 0x00 t.key) ∨ (headIsReset s ∧ t.key = 0)) ∧
    (t.block ≠ s.block → s.pending.head? = some (.write 0x01 t.block) ∨ (headIsReset s ∧ t.block = 0))

/-- R42, R270: RESULT keeps its value until the next FFINISH, ENC, DEC or reset. -/
def Obligations.ResultChangesOnlyByFinishing : Prop :=
  ∀ s t : State, step s = .next t → t.result ≠ s.result →
    headIsReset s ∨ headCommand s = some .ffinish ∨ headCommand s = some .enc ∨ headCommand s = some .dec

/-- R41: KS_ROUND advances by exactly 1 per KSNEXT and RND by exactly 1 per FROUND; neither wraps, and only the
named transactions set them otherwise. -/
def Obligations.CountersAdvanceByOne : Prop :=
  ∀ s t : State, step s = .next t →
    (t.ksRound ≠ s.ksRound →
      (headCommand s = some .ksnext ∧ t.ksRound.val = s.ksRound.val + 1) ∨
      ((headIsReset s ∨ headWritesKey s ∨ headCommand s = some .ksload) ∧ t.ksRound = 0) ∨
      ((headCommand s = some .enc ∨ headCommand s = some .dec) ∧ t.ksRound.val = 16)) ∧
    (t.rnd ≠ s.rnd →
      (headCommand s = some .fround ∧ t.rnd.val = s.rnd.val + 1) ∨
      ((headIsReset s ∨ headCommand s = some .floadF ∨ headCommand s = some .floadR) ∧ t.rnd = 0) ∨
      ((headCommand s = some .enc ∨ headCommand s = some .dec) ∧ t.rnd.val = 16))

/-- R31, R32, R106: the frame of every command: it leaves KEY, BLOCK and the host port alone. -/
def Obligations.CommandsKeepKeyBlockAndHostPort : Prop :=
  ∀ (i : Instr) (s t : State), exec i s = .next t →
    t.key = s.key ∧ t.block = s.block ∧ t.pending = s.pending ∧ t.replies = s.replies

/-- R150, R151, R195-R197: the frame of the step commands: those of the key schedule leave the Feistel state and
RESULT alone; those of the driver leave the key schedule alone, and all but FFINISH leave RESULT alone. -/
def Obligations.StepCommandsKeepTheOtherUnit : Prop :=
  ∀ (i : Instr) (s t : State), exec i s = .next t →
    (i = .ksload ∨ i = .ksnext → t.l = s.l ∧ t.r = s.r ∧ t.rnd = s.rnd ∧ t.fLoaded = s.fLoaded ∧
      t.dir = s.dir ∧ t.result = s.result) ∧
    (i = .floadF ∨ i = .floadR ∨ i = .fround ∨ i = .ffinish → t.c = s.c ∧ t.d = s.d ∧ t.rk = s.rk ∧
      t.kout = s.kout ∧ t.ksRound = s.ksRound ∧ t.ksLoaded = s.ksLoaded ∧ t.eos = s.eos) ∧
    (i = .floadF ∨ i = .floadR ∨ i = .fround → t.result = s.result) ∧
    (i = .ffinish → t.l = s.l ∧ t.r = s.r ∧ t.rnd = s.rnd ∧ t.fLoaded = s.fLoaded ∧ t.dir = s.dir)

/-- R45, R46, R34, R35, R36, R38, R44: every transaction keeps the invariants. -/
def Obligations.EveryStepKeepsTheInvariants : Prop :=
  ∀ s t : State, s.Inv → step s = .next t → t.Inv

/-- R45, R260: the invariants hold at reset. -/
def Obligations.ResetMeetsTheInvariants : Prop := State.reset.Inv

/-! ### Permutation primitive -/

/-- R131: output position i, counted from the most significant bit, holds DES bit T[i] of the input. -/
def Obligations.PermutePlacesTableBits : Prop :=
  ∀ (win wout : Nat) (x : BitVec win) (t : Vector Nat wout) (i : Fin wout),
    (permute x t).getLsbD (wout - 1 - i.val) = x.getLsbD (win - t[i])

/-- R134: IP, FP and P are bijections that keep the number of set bits. -/
def Obligations.BijectiveTablesKeepTheBitCount : Prop :=
  (∀ x : Word, bitCount (permute x ipTable) = bitCount x ∧ bitCount (permute x fpTable) = bitCount x) ∧
  (∀ x : Half, bitCount (permute x pTable) = bitCount x) ∧
  (∀ x y : Word, (permute x ipTable = permute y ipTable → x = y) ∧ (permute x fpTable = permute y fpTable → x = y)) ∧
  ∀ x y : Half, permute x pTable = permute y pTable → x = y

/-- R134, R145: PC-2 reads no position among 9, 18, 22, 25, 35, 38, 43 and 54, so those bits of C ‖ D do not
matter. -/
def Obligations.Pc2IgnoresItsUnusedPositions : Prop :=
  ∀ x y : BitVec 56, (∀ n : Nat, 1 ≤ n → n ≤ 56 → n ∉ [9, 18, 22, 25, 35, 38, 43, 54] → desBit x n = desBit y n) →
    permute x pc2Table = permute y pc2Table

/-- R192: FP is the inverse of IP, entry by entry and on every value. -/
def Obligations.IpAndFpAreInverse : Prop :=
  (∀ v : Word, ipf v = permute v ipTable ∧ fpf v = permute v fpTable) ∧
  (∀ v : Word, fpf (ipf v) = v ∧ ipf (fpf v) = v) ∧
  (∀ j : Fin 64, ipTable.toList.getD (fpTable[j] - 1) 0 = j.val + 1) ∧
  ipf 0x0123456789ABCDEF = 0xCC00CCFFF0AAF0AA

/-! ### Key schedule -/

/-- R143: the rotation is circular inside the 28-bit field. -/
def Obligations.RotationWrapsInsideTheField : Prop :=
  ∀ (x : KeyHalf) (n : Nat), n = 1 ∨ n = 2 → ∀ i : Nat, i < 28 →
    (rotl28 x n).getLsbD i = x.getLsbD ((i + 28 - n) % 28)

/-- R153: 28 rotations by one, or 14 by two, give back the value. -/
def Obligations.RotationIsPeriodic : Prop :=
  ∀ x : KeyHalf, Nat.iterate (fun y => rotl28 y 1) 28 x = x ∧ Nat.iterate (fun y => rotl28 y 2) 14 x = x

/-- R150: KSLOAD constructs a schedule instance from KEY, in every state. -/
def Obligations.KsloadConstructsASchedule : Prop :=
  ∀ s : State, exec .ksload s = .next { s with
    c := permute s.key pc1C, d := permute s.key pc1D, kout := 0, rk := Vector.replicate 16 0,
    ksLoaded := true, ksRound := 0, eos := false }

/-- R151, R231, R235: KSNEXT rotates, emits one key and advances KS_ROUND; at 16 it sets EOS alone; without an
instance it raises KS_NOT_LOADED. -/
def Obligations.KsnextAdvancesTheSchedule : Prop :=
  ∀ s : State,
    (s.ksLoaded = false → exec .ksnext s = .next (withError 2 s)) ∧
    (s.ksLoaded = true → s.ksRound.val = 16 → exec .ksnext s = .next { s with eos := true }) ∧
    (s.ksLoaded = true → ∀ n : Fin 16, s.ksRound.val = n.val →
      ∃ (k : RoundKey) (c d : KeyHalf), c = rotl28 s.c (shiftOf n.val) ∧ d = rotl28 s.d (shiftOf n.val) ∧
        k = permute (c ++ d) pc2Table ∧
        exec .ksnext s = .next { s with c := c, d := d, rk := s.rk.set n.val k n.isLt, kout := k, ksRound := n.succ })

/-- R147, R152: KSLOAD and 16 KSNEXTs leave RK = KS(KEY), KOUT = RK[15] and CD again PC1(KEY). -/
def Obligations.KsallMaterialisesTheSchedule : Prop :=
  ∀ s : State, runCommands ksAllCommands s = .next (scheduleComplete s)

/-- R149: the parity bits of the key do not matter, and a parity-only key gives all-zero round keys. -/
def Obligations.ParityBitsAreIgnored : Prop :=
  (∀ k m b : Word, keySchedule (k ^^^ (m &&& 0x0101010101010101)) = keySchedule k ∧
    encipher b (k ^^^ (m &&& 0x0101010101010101)) = encipher b k ∧
    decipher b (k ^^^ (m &&& 0x0101010101010101)) = decipher b k) ∧
  pc1 0x0101010101010101 = (0, 0) ∧ keySchedule 0x0101010101010101 = Vector.replicate 16 0

/-! ### Round function -/

/-- R173, R174, R176: the output of S-box S(i+1) on chunk i stands at y[31-4i : 28-4i]. -/
def Obligations.SboxPacksChunkZeroOnTop : Prop :=
  ∀ (x : RoundKey) (i : Fin 8) (row : Fin 4) (col : Fin 16),
    row.val = 2 * (x.getLsbD (47 - 6 * i.val)).toNat + (x.getLsbD (42 - 6 * i.val)).toNat →
    col.val = (x.extractLsb' (43 - 6 * i.val) 4).toNat →
    (sBox x).extractLsb' (28 - 4 * i.val) 4 = sTable[i][row][col]

/-- R178: the round function is P after the S-boxes after key mixing after E, with the worked example. -/
def Obligations.RoundFunctionIsItsFiveSteps : Prop :=
  (∀ (r : Half) (k : RoundKey), feistel r k = permute (sBox (permute r eTable ^^^ k)) pTable) ∧
  expand 0xF0AAF0AA = 0x7A15557A1555 ∧ sBox 0x6117BA866527 = 0x5C82B597 ∧
  feistel 0xF0AAF0AA 0x1B02EFFC7072 = 0x234AA9BB

/-! ### Cipher driver -/

/-- R195: FLOAD.F and FLOAD.R load the halves of IPf(BLOCK) and set the direction, in every state. -/
def Obligations.FloadLoadsThePermutedBlock : Prop :=
  ∀ s : State,
    exec .floadF s = .next { s with
      l := (ipf s.block).extractLsb' 32 32, r := (ipf s.block).extractLsb' 0 32
      rnd := 0, dir := .forward, fLoaded := true } ∧
    exec .floadR s = .next { s with
      l := (ipf s.block).extractLsb' 32 32, r := (ipf s.block).extractLsb' 0 32
      rnd := 0, dir := .reverse, fLoaded := true }

/-- R196, R237, R238: FROUND performs round RND with RK[key_index], or raises the first error that applies. -/
def Obligations.FroundPerformsOneRound : Prop :=
  ∀ s : State,
    (s.fLoaded = false → exec .fround s = .next (withError 3 s)) ∧
    (s.fLoaded = true → s.rnd.val = 16 → exec .fround s = .next (withError 5 s)) ∧
    (s.fLoaded = true → ∀ i j : Fin 16, s.rnd.val = i.val →
      (s.dir = .forward → j.val = i.val) → (s.dir = .reverse → j.val = 15 - i.val) →
      (s.ksLoaded = true ∧ j.val < s.ksRound.val → exec .fround s = .next { s with
        l := s.r, r := s.l ^^^ feistel s.r s.rk[j], rnd := i.succ }) ∧
      (¬ (s.ksLoaded = true ∧ j.val < s.ksRound.val) → exec .fround s = .next (withError 4 s)))

/-- R197, R239: FFINISH recombines after 16 rounds, or raises the first error that applies. -/
def Obligations.FfinishRecombinesTheHalves : Prop :=
  ∀ s : State,
    (s.fLoaded = false → exec .ffinish s = .next (withError 3 s)) ∧
    (s.fLoaded = true → s.rnd.val ≠ 16 → exec .ffinish s = .next (withError 6 s)) ∧
    (s.fLoaded = true → s.rnd.val = 16 → exec .ffinish s = .next { s with result := fpf (s.r ++ s.l) })

/-- R236: FROUND and FFINISH need a loaded Feistel state. -/
def Obligations.DriverCommandsNeedALoadedState : Prop :=
  ∀ s : State, s.fLoaded = false →
    exec .fround s = .next (withError 3 s) ∧ exec .ffinish s = .next (withError 3 s)

/-- R198: ENC completes in every state; it leaves RESULT = encipher(BLOCK, KEY), the complete schedule and the
halves after round 16, and touches nothing else. -/
def Obligations.EncEnciphersTheBlock : Prop :=
  ∀ s : State, exec .enc s = .next { scheduleComplete s with
    l := (halvesAfterRounds s.block (keySchedule s.key) .forward 16).1
    r := (halvesAfterRounds s.block (keySchedule s.key) .forward 16).2
    rnd := 16, fLoaded := true, dir := .forward, result := encipher s.block s.key }

/-- R199: DEC completes in every state; it leaves RESULT = decipher(BLOCK, KEY), the complete schedule and the
halves after round 16, and touches nothing else. -/
def Obligations.DecDeciphersTheBlock : Prop :=
  ∀ s : State, exec .dec s = .next { scheduleComplete s with
    l := (halvesAfterRounds s.block (keySchedule s.key) .reverse 16).1
    r := (halvesAfterRounds s.block (keySchedule s.key) .reverse 16).2
    rnd := 16, fLoaded := true, dir := .reverse, result := decipher s.block s.key }

/-- R109: ENC equals KSALL ; FLOAD.F ; ROUNDS ; FFINISH, and DEC equals KSALL ; FLOAD.R ; ROUNDS ; FFINISH, in
their effect on every register. -/
def Obligations.WholeBlockCommandsEqualTheirSteps : Prop :=
  ∀ s : State, exec .enc s = runCommands (stepSequence .floadF) s ∧
    exec .dec s = runCommands (stepSequence .floadR) s

/-- R202: the lazy forward order has ENC's effect; in reverse order the first round raises RK_NOT_READY. -/
def Obligations.LazyForwardOrderEqualsEnc : Prop :=
  ∀ s : State, runCommands lazySequence s = exec .enc s ∧
    ∃ t, runCommands [.ksload, .floadR, .ksnext] s = .next t ∧ exec .fround t = .next (withError 4 t)

/-- R200: the round trip, for the functions and for the commands. -/
def Obligations.DecipherUndoesEncipher : Prop :=
  (∀ b k : Word, decipher (encipher b k) k = b ∧ encipher (decipher b k) k = b) ∧
  ∀ s : State, ∃ t u, exec .enc s = .next t ∧ exec .dec { t with block := t.result } = .next u ∧ u.result = s.block

/-- R201: ENC's and DEC's RESULT depends on no register but KEY and BLOCK. -/
def Obligations.ResultDependsOnKeyAndBlockAlone : Prop :=
  ∀ i : Instr, i = .enc ∨ i = .dec → ∀ s s' : State, s.key = s'.key → s.block = s'.block →
    ∃ t t', exec i s = .next t ∧ exec i s' = .next t' ∧ t.result = t'.result

/-- The complementation property that 95_test_vectors.md D-D5 and D-D6 show instances of: it follows from the
tables and rules, and is no rule of its own. -/
def Obligations.ComplementationHolds : Prop :=
  ∀ b k : Word, encipher (~~~ b) (~~~ k) = ~~~ (encipher b k)

/-- R109, R110: the pseudo-instructions ENCIPHER and DECIPHER hand the host the cipher of their operands. -/
def Obligations.EncipherAndDecipherAnswerTheHost : Prop :=
  ∀ (s : State) (k b : Word) (rest : List HostTxn),
    (s.pending = (Stmt.encipher k.toNat b.toNat).expand ++ rest →
      ∃ t, core.run 4 s = .next t ∧ t.pending = rest ∧ t.replies = s.replies ++ [⟨0x04, encipher b k⟩]) ∧
    (s.pending = (Stmt.decipher k.toNat b.toNat).expand ++ rest →
      ∃ t, core.run 4 s = .next t ∧ t.pending = rest ∧ t.replies = s.replies ++ [⟨0x04, decipher b k⟩])
end

