-- ==== Sys2Proof/Laws/State.lean ====
section
/-! SUPPORT. One lemma per field and per update of the state: what each named operation leaves in each register. -/

namespace Sys2Proof.Machine

/-! Recording an error (R232). -/

@[simp] theorem raiseError_key (e : ErrorCode) (s : State) : (raiseError e s).key = s.key := rfl
@[simp] theorem raiseError_block (e : ErrorCode) (s : State) : (raiseError e s).block = s.block := rfl
@[simp] theorem raiseError_result (e : ErrorCode) (s : State) : (raiseError e s).result = s.result := rfl
@[simp] theorem raiseError_kout (e : ErrorCode) (s : State) : (raiseError e s).kout = s.kout := rfl
@[simp] theorem raiseError_c (e : ErrorCode) (s : State) : (raiseError e s).c = s.c := rfl
@[simp] theorem raiseError_d (e : ErrorCode) (s : State) : (raiseError e s).d = s.d := rfl
@[simp] theorem raiseError_rk (e : ErrorCode) (s : State) : (raiseError e s).rk = s.rk := rfl
@[simp] theorem raiseError_l (e : ErrorCode) (s : State) : (raiseError e s).l = s.l := rfl
@[simp] theorem raiseError_r (e : ErrorCode) (s : State) : (raiseError e s).r = s.r := rfl
@[simp] theorem raiseError_ksRound (e : ErrorCode) (s : State) : (raiseError e s).ksRound = s.ksRound := rfl
@[simp] theorem raiseError_ksLoaded (e : ErrorCode) (s : State) : (raiseError e s).ksLoaded = s.ksLoaded := rfl
@[simp] theorem raiseError_eos (e : ErrorCode) (s : State) : (raiseError e s).eos = s.eos := rfl
@[simp] theorem raiseError_rnd (e : ErrorCode) (s : State) : (raiseError e s).rnd = s.rnd := rfl
@[simp] theorem raiseError_fLoaded (e : ErrorCode) (s : State) : (raiseError e s).fLoaded = s.fLoaded := rfl
@[simp] theorem raiseError_dir (e : ErrorCode) (s : State) : (raiseError e s).dir = s.dir := rfl
@[simp] theorem raiseError_err (e : ErrorCode) (s : State) : (raiseError e s).err = true := rfl
@[simp] theorem raiseError_errCode (e : ErrorCode) (s : State) : (raiseError e s).errCode = if s.err then s.errCode else e.code := rfl
@[simp] theorem raiseError_pending (e : ErrorCode) (s : State) : (raiseError e s).pending = s.pending := rfl
@[simp] theorem raiseError_replies (e : ErrorCode) (s : State) : (raiseError e s).replies = s.replies := rfl

/-! `clear_schedule()` (R79). -/

@[simp] theorem clearSchedule_key (s : State) : (clearSchedule s).key = s.key := rfl
@[simp] theorem clearSchedule_block (s : State) : (clearSchedule s).block = s.block := rfl
@[simp] theorem clearSchedule_result (s : State) : (clearSchedule s).result = s.result := rfl
@[simp] theorem clearSchedule_kout (s : State) : (clearSchedule s).kout = 0 := rfl
@[simp] theorem clearSchedule_c (s : State) : (clearSchedule s).c = 0 := rfl
@[simp] theorem clearSchedule_d (s : State) : (clearSchedule s).d = 0 := rfl
@[simp] theorem clearSchedule_rk (s : State) : (clearSchedule s).rk = Vector.replicate 16 0 := rfl
@[simp] theorem clearSchedule_l (s : State) : (clearSchedule s).l = s.l := rfl
@[simp] theorem clearSchedule_r (s : State) : (clearSchedule s).r = s.r := rfl
@[simp] theorem clearSchedule_ksRound (s : State) : (clearSchedule s).ksRound = 0 := rfl
@[simp] theorem clearSchedule_ksLoaded (s : State) : (clearSchedule s).ksLoaded = false := rfl
@[simp] theorem clearSchedule_eos (s : State) : (clearSchedule s).eos = false := rfl
@[simp] theorem clearSchedule_rnd (s : State) : (clearSchedule s).rnd = s.rnd := rfl
@[simp] theorem clearSchedule_fLoaded (s : State) : (clearSchedule s).fLoaded = s.fLoaded := rfl
@[simp] theorem clearSchedule_dir (s : State) : (clearSchedule s).dir = s.dir := rfl
@[simp] theorem clearSchedule_err (s : State) : (clearSchedule s).err = s.err := rfl
@[simp] theorem clearSchedule_errCode (s : State) : (clearSchedule s).errCode = s.errCode := rfl
@[simp] theorem clearSchedule_pending (s : State) : (clearSchedule s).pending = s.pending := rfl
@[simp] theorem clearSchedule_replies (s : State) : (clearSchedule s).replies = s.replies := rfl

/-! HostReset (R260). -/

@[simp] theorem resetBlock_key (s : State) : (resetBlock s).key = 0 := rfl
@[simp] theorem resetBlock_block (s : State) : (resetBlock s).block = 0 := rfl
@[simp] theorem resetBlock_result (s : State) : (resetBlock s).result = 0 := rfl
@[simp] theorem resetBlock_kout (s : State) : (resetBlock s).kout = 0 := rfl
@[simp] theorem resetBlock_c (s : State) : (resetBlock s).c = 0 := rfl
@[simp] theorem resetBlock_d (s : State) : (resetBlock s).d = 0 := rfl
@[simp] theorem resetBlock_rk (s : State) : (resetBlock s).rk = Vector.replicate 16 0 := rfl
@[simp] theorem resetBlock_l (s : State) : (resetBlock s).l = 0 := rfl
@[simp] theorem resetBlock_r (s : State) : (resetBlock s).r = 0 := rfl
@[simp] theorem resetBlock_ksRound (s : State) : (resetBlock s).ksRound = 0 := rfl
@[simp] theorem resetBlock_ksLoaded (s : State) : (resetBlock s).ksLoaded = false := rfl
@[simp] theorem resetBlock_eos (s : State) : (resetBlock s).eos = false := rfl
@[simp] theorem resetBlock_rnd (s : State) : (resetBlock s).rnd = 0 := rfl
@[simp] theorem resetBlock_fLoaded (s : State) : (resetBlock s).fLoaded = false := rfl
@[simp] theorem resetBlock_dir (s : State) : (resetBlock s).dir = .forward := rfl
@[simp] theorem resetBlock_err (s : State) : (resetBlock s).err = false := rfl
@[simp] theorem resetBlock_errCode (s : State) : (resetBlock s).errCode = 0 := rfl
@[simp] theorem resetBlock_pending (s : State) : (resetBlock s).pending = s.pending := rfl
@[simp] theorem resetBlock_replies (s : State) : (resetBlock s).replies = s.replies := rfl

/-! Taking a transaction. -/

@[simp] theorem popTxn_key (s : State) : (popTxn s).key = s.key := rfl
@[simp] theorem popTxn_block (s : State) : (popTxn s).block = s.block := rfl
@[simp] theorem popTxn_result (s : State) : (popTxn s).result = s.result := rfl
@[simp] theorem popTxn_kout (s : State) : (popTxn s).kout = s.kout := rfl
@[simp] theorem popTxn_c (s : State) : (popTxn s).c = s.c := rfl
@[simp] theorem popTxn_d (s : State) : (popTxn s).d = s.d := rfl
@[simp] theorem popTxn_rk (s : State) : (popTxn s).rk = s.rk := rfl
@[simp] theorem popTxn_l (s : State) : (popTxn s).l = s.l := rfl
@[simp] theorem popTxn_r (s : State) : (popTxn s).r = s.r := rfl
@[simp] theorem popTxn_ksRound (s : State) : (popTxn s).ksRound = s.ksRound := rfl
@[simp] theorem popTxn_ksLoaded (s : State) : (popTxn s).ksLoaded = s.ksLoaded := rfl
@[simp] theorem popTxn_eos (s : State) : (popTxn s).eos = s.eos := rfl
@[simp] theorem popTxn_rnd (s : State) : (popTxn s).rnd = s.rnd := rfl
@[simp] theorem popTxn_fLoaded (s : State) : (popTxn s).fLoaded = s.fLoaded := rfl
@[simp] theorem popTxn_dir (s : State) : (popTxn s).dir = s.dir := rfl
@[simp] theorem popTxn_err (s : State) : (popTxn s).err = s.err := rfl
@[simp] theorem popTxn_errCode (s : State) : (popTxn s).errCode = s.errCode := rfl
@[simp] theorem popTxn_pending (s : State) : (popTxn s).pending = s.pending.tail := rfl
@[simp] theorem popTxn_replies (s : State) : (popTxn s).replies = s.replies := rfl

/-! HostRead (R70). -/

@[simp] theorem recordRead_key (i : RegIndex) (s : State) : (recordRead i s).key = s.key := rfl
@[simp] theorem recordRead_block (i : RegIndex) (s : State) : (recordRead i s).block = s.block := rfl
@[simp] theorem recordRead_result (i : RegIndex) (s : State) : (recordRead i s).result = s.result := rfl
@[simp] theorem recordRead_kout (i : RegIndex) (s : State) : (recordRead i s).kout = s.kout := rfl
@[simp] theorem recordRead_c (i : RegIndex) (s : State) : (recordRead i s).c = s.c := rfl
@[simp] theorem recordRead_d (i : RegIndex) (s : State) : (recordRead i s).d = s.d := rfl
@[simp] theorem recordRead_rk (i : RegIndex) (s : State) : (recordRead i s).rk = s.rk := rfl
@[simp] theorem recordRead_l (i : RegIndex) (s : State) : (recordRead i s).l = s.l := rfl
@[simp] theorem recordRead_r (i : RegIndex) (s : State) : (recordRead i s).r = s.r := rfl
@[simp] theorem recordRead_ksRound (i : RegIndex) (s : State) : (recordRead i s).ksRound = s.ksRound := rfl
@[simp] theorem recordRead_ksLoaded (i : RegIndex) (s : State) : (recordRead i s).ksLoaded = s.ksLoaded := rfl
@[simp] theorem recordRead_eos (i : RegIndex) (s : State) : (recordRead i s).eos = s.eos := rfl
@[simp] theorem recordRead_rnd (i : RegIndex) (s : State) : (recordRead i s).rnd = s.rnd := rfl
@[simp] theorem recordRead_fLoaded (i : RegIndex) (s : State) : (recordRead i s).fLoaded = s.fLoaded := rfl
@[simp] theorem recordRead_dir (i : RegIndex) (s : State) : (recordRead i s).dir = s.dir := rfl
@[simp] theorem recordRead_err (i : RegIndex) (s : State) : (recordRead i s).err = s.err := rfl
@[simp] theorem recordRead_errCode (i : RegIndex) (s : State) : (recordRead i s).errCode = s.errCode := rfl
@[simp] theorem recordRead_pending (i : RegIndex) (s : State) : (recordRead i s).pending = s.pending := rfl
@[simp] theorem recordRead_replies (i : RegIndex) (s : State) : (recordRead i s).replies = s.replies ++ [⟨i, readValue i s⟩] := rfl

/-! KSLOAD (R150). -/

@[simp] theorem ksLoad_key (s : State) : (ksLoad s).key = s.key := rfl
@[simp] theorem ksLoad_block (s : State) : (ksLoad s).block = s.block := rfl
@[simp] theorem ksLoad_result (s : State) : (ksLoad s).result = s.result := rfl
@[simp] theorem ksLoad_kout (s : State) : (ksLoad s).kout = 0 := rfl
@[simp] theorem ksLoad_c (s : State) : (ksLoad s).c = (pc1 s.key).1 := rfl
@[simp] theorem ksLoad_d (s : State) : (ksLoad s).d = (pc1 s.key).2 := rfl
@[simp] theorem ksLoad_rk (s : State) : (ksLoad s).rk = Vector.replicate 16 0 := rfl
@[simp] theorem ksLoad_l (s : State) : (ksLoad s).l = s.l := rfl
@[simp] theorem ksLoad_r (s : State) : (ksLoad s).r = s.r := rfl
@[simp] theorem ksLoad_ksRound (s : State) : (ksLoad s).ksRound = 0 := rfl
@[simp] theorem ksLoad_ksLoaded (s : State) : (ksLoad s).ksLoaded = true := rfl
@[simp] theorem ksLoad_eos (s : State) : (ksLoad s).eos = false := rfl
@[simp] theorem ksLoad_rnd (s : State) : (ksLoad s).rnd = s.rnd := rfl
@[simp] theorem ksLoad_fLoaded (s : State) : (ksLoad s).fLoaded = s.fLoaded := rfl
@[simp] theorem ksLoad_dir (s : State) : (ksLoad s).dir = s.dir := rfl
@[simp] theorem ksLoad_err (s : State) : (ksLoad s).err = s.err := rfl
@[simp] theorem ksLoad_errCode (s : State) : (ksLoad s).errCode = s.errCode := rfl
@[simp] theorem ksLoad_pending (s : State) : (ksLoad s).pending = s.pending := rfl
@[simp] theorem ksLoad_replies (s : State) : (ksLoad s).replies = s.replies := rfl

/-! KSNEXT below round 16 (R151). -/

@[simp] theorem ksEmit_key (n : Fin 16) (s : State) : (ksEmit n s).key = s.key := rfl
@[simp] theorem ksEmit_block (n : Fin 16) (s : State) : (ksEmit n s).block = s.block := rfl
@[simp] theorem ksEmit_result (n : Fin 16) (s : State) : (ksEmit n s).result = s.result := rfl
@[simp] theorem ksEmit_kout (n : Fin 16) (s : State) : (ksEmit n s).kout = pc2 (rotl28 s.c (shiftOf n.val)) (rotl28 s.d (shiftOf n.val)) := rfl
@[simp] theorem ksEmit_c (n : Fin 16) (s : State) : (ksEmit n s).c = rotl28 s.c (shiftOf n.val) := rfl
@[simp] theorem ksEmit_d (n : Fin 16) (s : State) : (ksEmit n s).d = rotl28 s.d (shiftOf n.val) := rfl
@[simp] theorem ksEmit_rk (n : Fin 16) (s : State) : (ksEmit n s).rk = s.rk.set n.val (pc2 (rotl28 s.c (shiftOf n.val)) (rotl28 s.d (shiftOf n.val))) n.isLt := rfl
@[simp] theorem ksEmit_l (n : Fin 16) (s : State) : (ksEmit n s).l = s.l := rfl
@[simp] theorem ksEmit_r (n : Fin 16) (s : State) : (ksEmit n s).r = s.r := rfl
@[simp] theorem ksEmit_ksRound (n : Fin 16) (s : State) : (ksEmit n s).ksRound = n.succ := rfl
@[simp] theorem ksEmit_ksLoaded (n : Fin 16) (s : State) : (ksEmit n s).ksLoaded = s.ksLoaded := rfl
@[simp] theorem ksEmit_eos (n : Fin 16) (s : State) : (ksEmit n s).eos = s.eos := rfl
@[simp] theorem ksEmit_rnd (n : Fin 16) (s : State) : (ksEmit n s).rnd = s.rnd := rfl
@[simp] theorem ksEmit_fLoaded (n : Fin 16) (s : State) : (ksEmit n s).fLoaded = s.fLoaded := rfl
@[simp] theorem ksEmit_dir (n : Fin 16) (s : State) : (ksEmit n s).dir = s.dir := rfl
@[simp] theorem ksEmit_err (n : Fin 16) (s : State) : (ksEmit n s).err = s.err := rfl
@[simp] theorem ksEmit_errCode (n : Fin 16) (s : State) : (ksEmit n s).errCode = s.errCode := rfl
@[simp] theorem ksEmit_pending (n : Fin 16) (s : State) : (ksEmit n s).pending = s.pending := rfl
@[simp] theorem ksEmit_replies (n : Fin 16) (s : State) : (ksEmit n s).replies = s.replies := rfl

/-! FLOAD (R195). -/

@[simp] theorem feistelLoad_key (d : Direction) (s : State) : (feistelLoad d s).key = s.key := rfl
@[simp] theorem feistelLoad_block (d : Direction) (s : State) : (feistelLoad d s).block = s.block := rfl
@[simp] theorem feistelLoad_result (d : Direction) (s : State) : (feistelLoad d s).result = s.result := rfl
@[simp] theorem feistelLoad_kout (d : Direction) (s : State) : (feistelLoad d s).kout = s.kout := rfl
@[simp] theorem feistelLoad_c (d : Direction) (s : State) : (feistelLoad d s).c = s.c := rfl
@[simp] theorem feistelLoad_d (d : Direction) (s : State) : (feistelLoad d s).d = s.d := rfl
@[simp] theorem feistelLoad_rk (d : Direction) (s : State) : (feistelLoad d s).rk = s.rk := rfl
@[simp] theorem feistelLoad_l (d : Direction) (s : State) : (feistelLoad d s).l = (splitHalves (ipf s.block)).1 := rfl
@[simp] theorem feistelLoad_r (d : Direction) (s : State) : (feistelLoad d s).r = (splitHalves (ipf s.block)).2 := rfl
@[simp] theorem feistelLoad_ksRound (d : Direction) (s : State) : (feistelLoad d s).ksRound = s.ksRound := rfl
@[simp] theorem feistelLoad_ksLoaded (d : Direction) (s : State) : (feistelLoad d s).ksLoaded = s.ksLoaded := rfl
@[simp] theorem feistelLoad_eos (d : Direction) (s : State) : (feistelLoad d s).eos = s.eos := rfl
@[simp] theorem feistelLoad_rnd (d : Direction) (s : State) : (feistelLoad d s).rnd = 0 := rfl
@[simp] theorem feistelLoad_fLoaded (d : Direction) (s : State) : (feistelLoad d s).fLoaded = true := rfl
@[simp] theorem feistelLoad_dir (d : Direction) (s : State) : (feistelLoad d s).dir = d := rfl
@[simp] theorem feistelLoad_err (d : Direction) (s : State) : (feistelLoad d s).err = s.err := rfl
@[simp] theorem feistelLoad_errCode (d : Direction) (s : State) : (feistelLoad d s).errCode = s.errCode := rfl
@[simp] theorem feistelLoad_pending (d : Direction) (s : State) : (feistelLoad d s).pending = s.pending := rfl
@[simp] theorem feistelLoad_replies (d : Direction) (s : State) : (feistelLoad d s).replies = s.replies := rfl

/-! FROUND with a ready key (R196). -/

@[simp] theorem roundStep_key (n : Fin 16) (s : State) : (roundStep n s).key = s.key := rfl
@[simp] theorem roundStep_block (n : Fin 16) (s : State) : (roundStep n s).block = s.block := rfl
@[simp] theorem roundStep_result (n : Fin 16) (s : State) : (roundStep n s).result = s.result := rfl
@[simp] theorem roundStep_kout (n : Fin 16) (s : State) : (roundStep n s).kout = s.kout := rfl
@[simp] theorem roundStep_c (n : Fin 16) (s : State) : (roundStep n s).c = s.c := rfl
@[simp] theorem roundStep_d (n : Fin 16) (s : State) : (roundStep n s).d = s.d := rfl
@[simp] theorem roundStep_rk (n : Fin 16) (s : State) : (roundStep n s).rk = s.rk := rfl
@[simp] theorem roundStep_l (n : Fin 16) (s : State) : (roundStep n s).l = s.r := rfl
@[simp] theorem roundStep_r (n : Fin 16) (s : State) : (roundStep n s).r = s.l ^^^ feistel s.r s.rk[keyIndex s.dir n.val] := rfl
@[simp] theorem roundStep_ksRound (n : Fin 16) (s : State) : (roundStep n s).ksRound = s.ksRound := rfl
@[simp] theorem roundStep_ksLoaded (n : Fin 16) (s : State) : (roundStep n s).ksLoaded = s.ksLoaded := rfl
@[simp] theorem roundStep_eos (n : Fin 16) (s : State) : (roundStep n s).eos = s.eos := rfl
@[simp] theorem roundStep_rnd (n : Fin 16) (s : State) : (roundStep n s).rnd = n.succ := rfl
@[simp] theorem roundStep_fLoaded (n : Fin 16) (s : State) : (roundStep n s).fLoaded = s.fLoaded := rfl
@[simp] theorem roundStep_dir (n : Fin 16) (s : State) : (roundStep n s).dir = s.dir := rfl
@[simp] theorem roundStep_err (n : Fin 16) (s : State) : (roundStep n s).err = s.err := rfl
@[simp] theorem roundStep_errCode (n : Fin 16) (s : State) : (roundStep n s).errCode = s.errCode := rfl
@[simp] theorem roundStep_pending (n : Fin 16) (s : State) : (roundStep n s).pending = s.pending := rfl
@[simp] theorem roundStep_replies (n : Fin 16) (s : State) : (roundStep n s).replies = s.replies := rfl

/-- What a register reads does not depend on the host port (R77). -/
@[simp] theorem readValue_hostPort (i : RegIndex) (s : State) (p : List HostTxn) (q : List ReadReply) :
    readValue i { s with pending := p, replies := q } = readValue i s := by
  unfold readValue
  cases regAt i with
  | none => rfl
  | some reg => cases reg <;> rfl

end Sys2Proof.Machine
end

