-- ==== Sys2Proof/Laws/Ops.lean ====
section
/-! SUPPORT. What each shared operation can do, said once: ending a command, repeating one, and taking a
transaction. -/

namespace Sys2Proof.Machine

@[simp] theorem complete_ok (s t : State) : complete s (.ok t) = .next t := rfl

@[simp] theorem complete_error (s : State) (e : ErrorCode) : complete s (.error e) = .next (raiseError e s) := rfl

/-- A command ends in its own result, or in the recorded error and nothing else (R232). -/
theorem complete_next {s t : State} {r : CmdResult} (h : complete s r = .next t) :
    r = .ok t ∨ ∃ e, r = .error e ∧ t = raiseError e s := by
  cases r with
  | ok u => exact .inl (by simpa using h)
  | error e => exact .inr ⟨e, rfl, by simpa using h.symm⟩

/-- A command always ends (R232). -/
theorem complete_total (s : State) (r : CmdResult) : ∃ t, complete s r = .next t := by
  cases r <;> simp

@[simp] theorem repeatCmd_zero (f : State → CmdResult) (s : State) : repeatCmd 0 f s = .ok s := rfl

theorem repeatCmd_succ {f : State → CmdResult} {s t : State} (n : Nat) (h : f s = .ok t) :
    repeatCmd (n + 1) f s = repeatCmd n f t := by
  simp [repeatCmd, h]

/-- Repeating a command whose every pass follows a known trajectory g ends at the trajectory's end. -/
theorem repeatCmd_trajectory {f : State → CmdResult} (g : Nat → State) (n k : Nat)
    (h : ∀ i, k ≤ i → i < k + n → f (g i) = .ok (g (i + 1))) : repeatCmd n f (g k) = .ok (g (k + n)) := by
  induction n generalizing k with
  | zero => rfl
  | succ n ih =>
    rw [repeatCmd_succ n (h k (by omega) (by omega)), ih (k + 1) (fun i h1 h2 => h i (by omega) (by omega))]
    congr 2; omega

/-- Every code stands for one of the numbers 1 to 8 (R233). -/
theorem ErrorCode.code_range (e : ErrorCode) : 1 ≤ e.code.toNat ∧ e.code.toNat ≤ 8 := by
  cases e <;> decide

/-- With no transaction issued there is nothing to take (R263). -/
theorem fetch_nil {s : State} (h : s.pending = []) : fetch s = .idle := by
  simp [fetch, h]

/-- The oldest transaction is the one taken (R76, R82). -/
theorem fetch_cons {s : State} {t : HostTxn} {rest : List HostTxn} (h : s.pending = t :: rest) :
    fetch s = fetchTxn t { s with pending := rest } := by
  simp [fetch, popTxn, h]

/-- HostRead (R70). -/
@[simp] theorem fetchTxn_read (i : RegIndex) (s : State) : fetchTxn (.read i) s = .done (recordRead i s) := rfl

/-- HostReset (R71). -/
@[simp] theorem fetchTxn_reset (s : State) : fetchTxn .reset s = .done (resetBlock s) := rfl

/-- A CMD write is a command (R81). -/
@[simp] theorem fetchTxn_cmd (w : Word) (s : State) : fetchTxn (.write 0x02 w) s = fetchCommand w s := rfl

/-- A write elsewhere is a register write (R70). -/
theorem fetchTxn_write {i : RegIndex} (h : regAt i ≠ some .cmd) (v : Word) (s : State) :
    fetchTxn (.write i v) s = .done (writeReg i v s) := by
  simp [fetchTxn, h]

theorem fetchCommand_ok {w : Word} {i : Instr} (h : decode w = .ok i) (s : State) :
    fetchCommand w s = .command i s := by
  simp [fetchCommand, h]

theorem fetchCommand_error {w : Word} {e : Reject} (h : decode w = .error e) (s : State) :
    fetchCommand w s = .done (raiseError .illegalCmd s) := by
  simp [fetchCommand, h]

/-- The index map read the other way: only 0x02 is CMD (R30). -/
theorem regAt_cmd_iff (i : RegIndex) : regAt i = some .cmd ↔ i = 0x02 := by
  revert i; decide +kernel

/-- Only 0x00 is KEY (R30). -/
theorem regAt_key_iff (i : RegIndex) : regAt i = some .key ↔ i = 0x00 := by
  revert i; decide +kernel

/-- Only 0x01 is BLOCK (R30). -/
theorem regAt_block_iff (i : RegIndex) : regAt i = some .block ↔ i = 0x01 := by
  revert i; decide +kernel

/-- 0x10 … 0x1F are the round-key file (R30). -/
theorem regAt_rk (i : RegIndex) (h : 0x10 ≤ i.toNat ∧ i.toNat ≤ 0x1F) :
    regAt i = some (.rk (Fin.ofNat 16 (i.toNat - 0x10))) := by
  revert i; decide +kernel

/-- A register write changes KEY with the schedule, or BLOCK, or records an error (R70, R78, R79, R80). -/
theorem writeReg_cases (i : RegIndex) (v : Word) (s : State) :
    (i = 0x00 ∧ writeReg i v s = clearSchedule { s with key := v }) ∨
    (i = 0x01 ∧ writeReg i v s = { s with block := v }) ∨
    (i ≠ 0x00 ∧ i ≠ 0x01 ∧ ∃ e, (e = .writeRo ∨ e = .badReg) ∧ writeReg i v s = raiseError e s) := by
  by_cases h0 : i = 0x00
  · subst h0; exact .inl ⟨rfl, rfl⟩
  by_cases h1 : i = 0x01
  · subst h1; exact .inr (.inl ⟨rfl, rfl⟩)
  refine .inr (.inr ⟨h0, h1, ?_⟩)
  cases h : regAt i with
  | none => exact ⟨_, .inr rfl, by simp [writeReg, h]⟩
  | some reg =>
    cases reg with
    | key => exact absurd ((regAt_key_iff i).mp h) h0
    | block => exact absurd ((regAt_block_iff i).mp h) h1
    | _ => exact ⟨_, .inl rfl, by simp [writeReg, h]⟩

end Sys2Proof.Machine
end

