-- ==== Sys2Proof/Laws/Permutation.lean ====
section
/-! SUPPORT. The permutation primitive, bit by bit (40_permutation.md R131), and what follows for every table. -/

namespace Sys2Proof.Machine

/-- DES bit n counted from 1 is bit n - 1 counted from the most significant end (00_scope.md R8). -/
theorem desBit_eq_getMsbD {w n : Nat} (v : BitVec w) (h1 : 1 ≤ n) (hw : n ≤ w) :
    desBit v n = v.getMsbD (n - 1) := by
  rw [desBit, BitVec.getMsbD_eq_getLsbD]
  have h : w - 1 - (n - 1) = w - n := by omega
  simp [h, show n - 1 < w by omega]

/-- Output position i from the top is the source position T[i] (R131). -/
theorem permute_getMsbD {win wout : Nat} (x : BitVec win) (t : Vector Nat wout) (i : Nat) (h : i < wout) :
    (permute x t).getMsbD i = desBit x t[i] := by
  simp [permute, List.getD, h]

/-- Two inputs that agree on the positions of a table permute alike (R130). -/
theorem permute_congr {win wout : Nat} {x y : BitVec win} {t : Vector Nat wout}
    (h : ∀ p ∈ t.toList, desBit x p = desBit y p) : permute x t = permute y t := by
  apply BitVec.eq_of_getMsbD_eq
  intro i hi
  rw [permute_getMsbD _ _ _ hi, permute_getMsbD _ _ _ hi]
  exact h _ (by simp)

@[simp] theorem desBit_zero {w : Nat} (n : Nat) : desBit 0#w n = false := by
  simp [desBit]

@[simp] theorem desBit_xor {w : Nat} (x y : BitVec w) (n : Nat) :
    desBit (x ^^^ y) n = (desBit x n ^^ desBit y n) := by
  simp [desBit]

theorem desBit_not {w n : Nat} (x : BitVec w) (h1 : 1 ≤ n) (hw : n ≤ w) :
    desBit (~~~ x) n = !desBit x n := by
  simp [desBit, show w - n < w by omega]

/-- A permutation distributes over exclusive or. -/
theorem permute_xor {win wout : Nat} (x y : BitVec win) (t : Vector Nat wout) :
    permute (x ^^^ y) t = permute x t ^^^ permute y t := by
  apply BitVec.eq_of_getMsbD_eq
  intro i hi
  simp [permute_getMsbD, hi]

/-- A permutation of 0 is 0 (R134). -/
@[simp] theorem permute_zero {win wout : Nat} (t : Vector Nat wout) : permute 0#win t = 0#wout := by
  apply BitVec.eq_of_getMsbD_eq
  intro i hi
  simp [permute_getMsbD, hi]

/-- A table whose entries are positions of its input commutes with complement. -/
theorem permute_not {win wout : Nat} (x : BitVec win) (t : Vector Nat wout) (ht : tableOk win t = true) :
    permute (~~~ x) t = ~~~ permute x t := by
  apply BitVec.eq_of_getMsbD_eq
  intro i hi
  have hm : t[i] ∈ t.toList := by simp
  have hp := List.all_eq_true.mp ht _ hm
  simp only [Bool.and_eq_true, decide_eq_true_eq] at hp
  rw [permute_getMsbD _ _ _ hi, desBit_not _ hp.1 hp.2, BitVec.getMsbD_not, permute_getMsbD _ _ _ hi]
  simp [hi]

/-- One table undoes another when it reads back each position, entry by entry (R192). -/
theorem permute_permute {win mid wout : Nat} (x : BitVec win) (t : Vector Nat mid) (u : Vector Nat wout)
    (v : Vector Nat wout) (h : ∀ i : Fin wout, 1 ≤ u[i] ∧ u[i] ≤ mid ∧ t.toList.getD (u[i] - 1) 0 = v[i]) :
    permute (permute x t) u = permute x v := by
  apply BitVec.eq_of_getMsbD_eq
  intro i hi
  obtain ⟨h1, h2, h3⟩ := h ⟨i, hi⟩
  simp only [Fin.getElem_fin] at h1 h2 h3
  have hlt : u[i] - 1 < mid := by omega
  rw [permute_getMsbD _ _ _ hi, permute_getMsbD _ _ _ hi, desBit_eq_getMsbD _ h1 h2, permute_getMsbD _ _ _ hlt]
  congr 1
  rw [← h3]
  simp [List.getD, hlt]

end Sys2Proof.Machine
end

