-- ==== Sys2Proof/Laws/KeySchedule.lean ====
section
/-! SUPPORT. The key schedule: rotation by the bit, and what KSNEXT can do (41_key_schedule.md R143, R147, R151). -/

namespace Sys2Proof.Machine

/-- Bit i of a rotation by n ≤ 28 (R143). -/
theorem rotl28_getLsbD (x : KeyHalf) (n i : Nat) (hn : n ≤ 28) (hi : i < 28) :
    (rotl28 x n).getLsbD i = if i < n then x.getLsbD (i + 28 - n) else x.getLsbD (i - n) := by
  simp only [rotl28, BitVec.getLsbD_or, BitVec.getLsbD_shiftLeft, BitVec.getLsbD_ushiftRight]
  split
  · simp_all [show 28 - n + i = i + 28 - n by omega]
  · have : 28 ≤ 28 - n + i := by omega
    simp_all [BitVec.getLsbD_of_ge]

/-- Rotations add up to a whole turn (R144, R152). -/
theorem rotl28_rotl28 (x : KeyHalf) (m n : Nat) (h : m + n ≤ 28) : rotl28 (rotl28 x m) n = rotl28 x (m + n) := by
  apply BitVec.eq_of_getLsbD_eq
  intro i hi
  rw [rotl28_getLsbD _ _ _ (by omega) hi, rotl28_getLsbD _ _ _ h hi]
  split
  · rw [rotl28_getLsbD _ _ _ (by omega) (by omega)]
    split <;> split <;> (congr 1; omega)
  · rw [rotl28_getLsbD _ _ _ (by omega) (by omega)]
    split <;> split <;> (congr 1; omega)

@[simp] theorem rotl28_zero_left (n : Nat) : rotl28 0#28 n = 0#28 := by simp [rotl28]

/-- No rotation, and a whole turn, leave the value (R152). -/
@[simp] theorem rotl28_zero (x : KeyHalf) : rotl28 x 0 = x := by
  apply BitVec.eq_of_getLsbD_eq
  intro i hi
  simp [rotl28_getLsbD x 0 i (by omega) hi]

@[simp] theorem rotl28_turn (x : KeyHalf) : rotl28 x 28 = x := by
  apply BitVec.eq_of_getLsbD_eq
  intro i hi
  rw [rotl28_getLsbD x 28 i (by omega) hi]
  simp [hi]

/-- σ(n) stays within a turn, and σ(16) is a whole one (R144). -/
theorem totalShift_le : ∀ n ≤ 16, totalShift n ≤ 28 := by decide

/-- The halves after n passes are the first halves rotated by σ(n) (R45, R147). -/
theorem halvesAfter_eq (key : Word) (n : Nat) (h : n ≤ 16) :
    halvesAfter key n = (rotl28 (pc1 key).1 (totalShift n), rotl28 (pc1 key).2 (totalShift n)) := by
  induction n with
  | zero => simp [halvesAfter, totalShift]
  | succ n ih =>
    have := totalShift_le (n + 1) h
    simp only [halvesAfter, rotateHalves, ih (by omega), totalShift] at this ⊢
    rw [rotl28_rotl28 _ _ _ this, rotl28_rotl28 _ _ _ this]

@[simp] theorem keySchedule_getElem (key : Word) (j : Nat) (h : j < 16) :
    (keySchedule key)[j] = roundKey key j := by simp [keySchedule]

/-- KSNEXT raises KS_NOT_LOADED, or emits one key, or sets EOS alone (R151). -/
theorem ksNext_cases (s : State) :
    (s.ksLoaded = false ∧ ksNext s = .error .ksNotLoaded) ∨
    (s.ksLoaded = true ∧ ∃ n : Fin 16, s.ksRound = n.castSucc ∧ ksNext s = .ok (ksEmit n s)) ∨
    (s.ksLoaded = true ∧ s.ksRound = 16 ∧ ksNext s = .ok { s with eos := true }) := by
  unfold ksNext
  split
  · simp_all
  · rename_i hl
    split
    · rename_i h
      exact .inr (.inl ⟨by simpa using hl, ⟨s.ksRound.val, h⟩, by simp, rfl⟩)
    · rename_i h
      exact .inr (.inr ⟨by simpa using hl, by apply Fin.ext; have := s.ksRound.isLt; simp at *; omega, rfl⟩)

/-- KSNEXT with an instance and a key left emits it. -/
theorem ksNext_emit {s : State} (hl : s.ksLoaded = true) (n : Fin 16) (h : s.ksRound.val = n.val) :
    ksNext s = .ok (ksEmit n s) := by
  have hn : s.ksRound.val < 16 := by omega
  simp [ksNext, hl, hn, show (⟨s.ksRound.val, hn⟩ : Fin 16) = n from Fin.ext h]

end Sys2Proof.Machine
end

