-- ==== Sys2Proof/Laws/Cipher.lean ====
section
/-! SUPPORT. The cipher driver: what FROUND and FFINISH can do, and the one walk through the step commands that ENC and
DEC are made of (43_cipher_driver.md R196-R199). -/

namespace Sys2Proof.Machine

/-- FROUND raises its errors in priority order, or performs one round (R196, R242). -/
theorem feistelNext_cases (s : State) :
    (s.fLoaded = false ∧ feistelNext s = .error .fNotLoaded) ∨
    (s.fLoaded = true ∧ s.rnd = 16 ∧ feistelNext s = .error .roundsDone) ∨
    (s.fLoaded = true ∧ ∃ n : Fin 16, s.rnd = n.castSucc ∧
      ((keyReady s (keyIndex s.dir n.val) = false ∧ feistelNext s = .error .rkNotReady) ∨
       (keyReady s (keyIndex s.dir n.val) = true ∧ feistelNext s = .ok (roundStep n s)))) := by
  by_cases hl : s.fLoaded = true
  · by_cases h : s.rnd.val < 16
    · refine .inr (.inr ⟨hl, ⟨s.rnd.val, h⟩, by simp, ?_⟩)
      cases hk : keyReady s (keyIndex s.dir s.rnd.val) <;> simp [feistelNext, hl, h, hk]
    · have h16 : s.rnd = 16 := by apply Fin.ext; have := s.rnd.isLt; simp at *; omega
      exact .inr (.inl ⟨hl, h16, by simp [feistelNext, hl, h16]⟩)
  · exact .inl ⟨by simpa using hl, by simp [feistelNext, hl]⟩

/-- FROUND with a loaded state, a round left and its key ready performs it. -/
theorem feistelNext_ready {s : State} (hl : s.fLoaded = true) (n : Fin 16) (h : s.rnd.val = n.val)
    (hk : keyReady s (keyIndex s.dir n.val) = true) : feistelNext s = .ok (roundStep n s) := by
  simp [feistelNext, hl, h, hk]

/-- FFINISH raises its errors in priority order, or writes RESULT alone (R197, R242). -/
theorem feistelFinish_cases (s : State) :
    (s.fLoaded = false ∧ feistelFinish s = .error .fNotLoaded) ∨
    (s.fLoaded = true ∧ s.rnd ≠ 16 ∧ feistelFinish s = .error .roundsPending) ∨
    (s.fLoaded = true ∧ s.rnd = 16 ∧ feistelFinish s = .ok { s with result := finishHalves (s.l, s.r) }) := by
  by_cases hl : s.fLoaded = true
  · by_cases h : s.rnd = 16
    · exact .inr (.inr ⟨hl, h, by simp [feistelFinish, hl, h]⟩)
    · have hv : s.rnd.val ≠ 16 := fun hh => h (Fin.ext (by simpa using hh))
      exact .inr (.inl ⟨hl, h, by simp [feistelFinish, hl, hv]⟩)
  · exact .inl ⟨by simpa using hl, by simp [feistelFinish, hl]⟩

/-- The round-key file after n keys of a fresh schedule: the schedule's keys, then zeros (R46). -/
def emittedKeys (key : Word) (n : Nat) : Vector RoundKey 16 :=
  Vector.ofFn fun j => if j.val < n then roundKey key j.val else 0

/-- The key-schedule registers of s replaced by those after KSLOAD and n KSNEXTs (R45, R46, R38). -/
def scheduleAt (s : State) (n : Fin 17) : State :=
  { s with
    c := (halvesAfter s.key n.val).1
    d := (halvesAfter s.key n.val).2
    kout := if n.val = 0 then 0 else roundKey s.key (n.val - 1)
    rk := emittedKeys s.key n.val
    ksRound := n
    ksLoaded := true
    eos := false }

/-- KSLOAD starts the walk (R150). -/
theorem ksLoad_eq_scheduleAt (s : State) : ksLoad s = scheduleAt s 0 := by
  have h : emittedKeys s.key 0 = Vector.replicate 16 0 := by
    apply Vector.ext; intro i hi; simp [emittedKeys]
  simp [ksLoad, clearSchedule, scheduleAt, halvesAfter, h]

/-- KSNEXT takes one step of the walk (R151). -/
theorem ksNext_scheduleAt (s : State) (n : Fin 16) :
    ksNext (scheduleAt s n.castSucc) = .ok (scheduleAt s n.succ) := by
  rw [ksNext_emit (s := scheduleAt s n.castSucc) rfl n rfl]
  have hk : (emittedKeys s.key n.val).set n.val (roundKey s.key n.val) n.isLt = emittedKeys s.key (n.val + 1) := by
    apply Vector.ext
    intro i hi
    by_cases h : n.val = i
    · subst h; simp [emittedKeys]
    · rw [Vector.getElem_set_ne _ _ h]
      simp only [emittedKeys, Vector.getElem_ofFn]
      split <;> split <;> first | rfl | omega
  simp only [ksEmit, scheduleAt, Fin.val_castSucc, Fin.val_succ]
  rw [← hk]
  simp [halvesAfter, rotateHalves, roundKey]

/-- The state whose Feistel registers are those after FLOAD and n FROUNDs with the round keys k (R193, R196). -/
def roundsAt (s : State) (k : Vector RoundKey 16) (d : Direction) (n : Fin 17) : State :=
  { s with
    l := (halvesAfterRounds s.block k d n.val).1
    r := (halvesAfterRounds s.block k d n.val).2
    rnd := n
    dir := d
    fLoaded := true }

/-- FLOAD starts the rounds (R195). -/
theorem feistelLoad_eq_roundsAt (s : State) (k : Vector RoundKey 16) (d : Direction) :
    feistelLoad d s = roundsAt s k d 0 := rfl

/-- FROUND performs one of them, when its key is ready (R196). -/
theorem feistelNext_roundsAt (s : State) (k : Vector RoundKey 16) (d : Direction) (n : Fin 16)
    (hk : keyReady s (keyIndex d n.val) = true) (he : s.rk[keyIndex d n.val] = k[keyIndex d n.val]) :
    feistelNext (roundsAt s k d n.castSucc) = .ok (roundsAt s k d n.succ) := by
  rw [feistelNext_ready (s := roundsAt s k d n.castSucc) rfl n rfl hk]
  simp only [Fin.getElem_fin] at he
  simp [roundStep, roundsAt, halvesAfterRounds, he]

/-- 16 KSNEXTs after KSLOAD complete the schedule and raise nothing (R147, R198). -/
theorem repeat_ksNext (s : State) : repeatCmd 16 ksNext (ksLoad s) = .ok (scheduleAt s 16) := by
  rw [ksLoad_eq_scheduleAt]
  refine repeatCmd_trajectory (fun i => scheduleAt s (Fin.ofNat 17 i)) 16 0 fun i _ hi => ?_
  have h : i < 16 := by omega
  have h0 : Fin.ofNat 17 i = (⟨i, h⟩ : Fin 16).castSucc := Fin.ext (by simp; omega)
  have h1 : Fin.ofNat 17 (i + 1) = (⟨i, h⟩ : Fin 16).succ := Fin.ext (by simp; omega)
  simp only [h0, h1]
  exact ksNext_scheduleAt s ⟨i, h⟩

/-- 16 FROUNDs after FLOAD, on a complete schedule, raise nothing (R193, R198). -/
theorem repeat_feistelNext (s : State) (d : Direction) (hl : s.ksLoaded = true) (hn : s.ksRound = 16) :
    repeatCmd 16 feistelNext (feistelLoad d s) = .ok (roundsAt s s.rk d 16) := by
  rw [feistelLoad_eq_roundsAt s s.rk d]
  refine repeatCmd_trajectory (fun i => roundsAt s s.rk d (Fin.ofNat 17 i)) 16 0 fun i _ hi => ?_
  have h : i < 16 := by omega
  have h0 : Fin.ofNat 17 i = (⟨i, h⟩ : Fin 16).castSucc := Fin.ext (by simp; omega)
  have h1 : Fin.ofNat 17 (i + 1) = (⟨i, h⟩ : Fin 16).succ := Fin.ext (by simp; omega)
  simp only [h0, h1]
  refine feistelNext_roundsAt s s.rk d ⟨i, h⟩ ?_ rfl
  simp [keyReady, hl, hn]

/-- The complete round-key file is the key schedule (R147). -/
theorem emittedKeys_all (key : Word) : emittedKeys key 16 = keySchedule key := by
  apply Vector.ext
  intro i hi
  simp [emittedKeys]

/-- The micro-sequence of ENC and DEC raises nothing, and what it leaves (R198, R199). -/
theorem cipherBlock_eq (d : Direction) (s : State) :
    cipherBlock d s = .ok { roundsAt (scheduleAt s 16) (keySchedule s.key) d 16 with
      result := transform s.block (keySchedule s.key) d } := by
  have hr : (scheduleAt s 16).rk = keySchedule s.key := emittedKeys_all s.key
  have h2 := repeat_feistelNext (scheduleAt s 16) d rfl rfl
  rw [hr] at h2
  simp only [cipherBlock, repeat_ksNext, h2, bind, Except.bind]
  rfl

end Sys2Proof.Machine
end

