-- ==== Sys2Proof/Laws/Decode.lean ====
section
/-! SUPPORT. The decoder read from its fields (30_encoding.md R100, R101). -/

namespace Sys2Proof

/-- A word is put together from its three fields (R100). -/
theorem word_of_fields (w : Word) : w = rsvdOf w ++ dirOf w ++ opOf w := by
  apply BitVec.eq_of_getLsbD_eq
  intro i hi
  simp only [rsvdOf, dirOf, opOf, BitVec.getLsbD_append, BitVec.getLsbD_extractLsb']
  by_cases h4 : i < 4
  · simp [h4]
  · by_cases h5 : i < 5
    · have h : i = 4 := by omega
      subst h; simp
    · have h1 : ¬ i - 4 < 1 := by omega
      have h2 : i - 4 - 1 < 59 := by omega
      simp [h4, h1, h2, show 5 + (i - 4 - 1) = i by omega]

/-- With the reserved bits 0, decoding is the case distinction on OP and DIR (R101). -/
theorem decode_of_reserved_zero {w : Word} (h : rsvdOf w = 0) : decode w = decodeOpDir (opOf w) (dirOf w) := by
  simp [decode, h]

/-- With a reserved bit set, nothing is decoded (R105). -/
theorem decode_of_reserved {w : Word} (h : rsvdOf w ≠ 0) : decode w = .error .reservedBits := by
  rw [decode, if_pos h]

end Sys2Proof
end

