-- ==== Sys2Proof/Laws/PerInstr.lean ====
section
/-! SUPPORT. The per-instruction statements: every command's word carries exactly the fields of its row in the opcode
map (30_encoding.md R102), and they are legal (R101). -/

namespace Sys2Proof.Laws.WordFields

/-- The word of i has i's fields, the reserved bits 0 among them, and i is well formed. -/
def Statement (i : Instr) : Prop :=
  cmdFields (encode i) = i.fields ∧ rsvdOf (encode i) = 0 ∧ i.wf = true

theorem enc : Statement .enc := by unfold Statement; decide
theorem dec : Statement .dec := by unfold Statement; decide
theorem ksload : Statement .ksload := by unfold Statement; decide
theorem ksnext : Statement .ksnext := by unfold Statement; decide
theorem floadF : Statement .floadF := by unfold Statement; decide
theorem floadR : Statement .floadR := by unfold Statement; decide
theorem fround : Statement .fround := by unfold Statement; decide
theorem ffinish : Statement .ffinish := by unfold Statement; decide

end Sys2Proof.Laws.WordFields
end

