-- ==== Sys2Proof/Laws/Step.lean ====
section
/-! SUPPORT. What a command can do and what a step can do, said once: every invariant and whole-machine rule follows
from these two case lists. -/

namespace Sys2Proof.Machine

/-- The next states of a command (R150, R151, R195-R199), one case per branch of its pseudocode. -/
inductive ExecCase (s : State) : Instr → State → Prop
  /-- KSNEXT without an instance (R235). -/
  | ksNotLoaded (hl : s.ksLoaded = false) : ExecCase s .ksnext (raiseError .ksNotLoaded s)
  /-- FROUND without a loaded state (R236). -/
  | roundNotLoaded (hl : s.fLoaded = false) : ExecCase s .fround (raiseError .fNotLoaded s)
  /-- FROUND after 16 rounds (R238). -/
  | roundsDone (hl : s.fLoaded = true) (hr : s.rnd = 16) : ExecCase s .fround (raiseError .roundsDone s)
  /-- FROUND without its key (R237). -/
  | rkNotReady (n : Fin 16) (hl : s.fLoaded = true) (hr : s.rnd = n.castSucc)
      (hk : keyReady s (keyIndex s.dir n.val) = false) : ExecCase s .fround (raiseError .rkNotReady s)
  /-- FFINISH without a loaded state (R236). -/
  | finishNotLoaded (hl : s.fLoaded = false) : ExecCase s .ffinish (raiseError .fNotLoaded s)
  /-- FFINISH before 16 rounds (R239). -/
  | roundsPending (hl : s.fLoaded = true) (hr : s.rnd ≠ 16) : ExecCase s .ffinish (raiseError .roundsPending s)
  /-- KSLOAD (R150). -/
  | ksload : ExecCase s .ksload (ksLoad s)
  /-- KSNEXT with a key left (R151). -/
  | ksEmit (n : Fin 16) (hl : s.ksLoaded = true) (hr : s.ksRound = n.castSucc) : ExecCase s .ksnext (ksEmit n s)
  /-- KSNEXT after the last key (R231). -/
  | ksEnd (hl : s.ksLoaded = true) (hr : s.ksRound = 16) : ExecCase s .ksnext { s with eos := true }
  /-- FLOAD.F (R195). -/
  | floadF : ExecCase s .floadF (feistelLoad .forward s)
  /-- FLOAD.R (R195). -/
  | floadR : ExecCase s .floadR (feistelLoad .reverse s)
  /-- FROUND with its key (R196). -/
  | round (n : Fin 16) (hl : s.fLoaded = true) (hr : s.rnd = n.castSucc)
      (hk : keyReady s (keyIndex s.dir n.val) = true) : ExecCase s .fround (roundStep n s)
  /-- FFINISH (R197). -/
  | finish (hl : s.fLoaded = true) (hr : s.rnd = 16) :
      ExecCase s .ffinish { s with result := finishHalves (s.l, s.r) }
  /-- ENC (R198). -/
  | enc : ExecCase s .enc { roundsAt (scheduleAt s 16) (keySchedule s.key) .forward 16 with
      result := transform s.block (keySchedule s.key) .forward }
  /-- DEC (R199). -/
  | dec : ExecCase s .dec { roundsAt (scheduleAt s 16) (keySchedule s.key) .reverse 16 with
      result := transform s.block (keySchedule s.key) .reverse }

/-- Every command answers a next state, and which ones. -/
theorem exec_cases (i : Instr) (s : State) : ∃ t, exec i s = .next t ∧ ExecCase s i t := by
  cases i with
  | enc => exact ⟨_, by rw [exec, execEnc, cipherBlock_eq]; rfl, .enc⟩
  | dec => exact ⟨_, by rw [exec, execDec, cipherBlock_eq]; rfl, .dec⟩
  | ksload => exact ⟨_, rfl, .ksload⟩
  | floadF => exact ⟨_, rfl, .floadF⟩
  | floadR => exact ⟨_, rfl, .floadR⟩
  | ksnext =>
    rcases ksNext_cases s with ⟨hl, h⟩ | ⟨hl, n, hr, h⟩ | ⟨hl, hr, h⟩
    · exact ⟨_, by rw [exec, execKsnext, h]; rfl, .ksNotLoaded hl⟩
    · exact ⟨_, by rw [exec, execKsnext, h]; rfl, .ksEmit n hl hr⟩
    · exact ⟨_, by rw [exec, execKsnext, h]; rfl, .ksEnd hl hr⟩
  | fround =>
    rcases feistelNext_cases s with ⟨hl, h⟩ | ⟨hl, hr, h⟩ | ⟨hl, n, hr, ⟨hk, h⟩ | ⟨hk, h⟩⟩
    · exact ⟨_, by rw [exec, execFround, h]; rfl, .roundNotLoaded hl⟩
    · exact ⟨_, by rw [exec, execFround, h]; rfl, .roundsDone hl hr⟩
    · exact ⟨_, by rw [exec, execFround, h]; rfl, .rkNotReady n hl hr hk⟩
    · exact ⟨_, by rw [exec, execFround, h]; rfl, .round n hl hr hk⟩
  | ffinish =>
    rcases feistelFinish_cases s with ⟨hl, h⟩ | ⟨hl, hr, h⟩ | ⟨hl, hr, h⟩
    · exact ⟨_, by rw [exec, execFfinish, h]; rfl, .finishNotLoaded hl⟩
    · exact ⟨_, by rw [exec, execFfinish, h]; rfl, .roundsPending hl hr⟩
    · exact ⟨_, by rw [exec, execFfinish, h]; rfl, .finish hl hr⟩

/-- The case of a command that answered t. -/
theorem exec_inv {i : Instr} {s t : State} (h : exec i s = .next t) : ExecCase s i t := by
  obtain ⟨u, hu, hc⟩ := exec_cases i s
  rw [hu] at h
  cases h
  exact hc

/-- The next states of a step, by its transaction (R70, R71, R76, R81). -/
inductive StepCase (s : State) : State → Prop
  /-- No transaction (R263). -/
  | idle (hp : s.pending = []) : StepCase s s
  /-- HostRead (R70). -/
  | read {i : RegIndex} {rest : List HostTxn} (hp : s.pending = .read i :: rest) :
      StepCase s (recordRead i { s with pending := rest })
  /-- HostReset (R71). -/
  | reset {rest : List HostTxn} (hp : s.pending = .reset :: rest) :
      StepCase s (resetBlock { s with pending := rest })
  /-- HostWrite to KEY (R79). -/
  | keyWrite {v : Word} {rest : List HostTxn} (hp : s.pending = .write 0x00 v :: rest) :
      StepCase s (clearSchedule { s with pending := rest, key := v })
  /-- HostWrite to BLOCK (R80). -/
  | blockWrite {v : Word} {rest : List HostTxn} (hp : s.pending = .write 0x01 v :: rest) :
      StepCase s { s with pending := rest, block := v }
  /-- HostWrite to a read-only or unmapped index (R78). -/
  | badWrite {i : RegIndex} {v : Word} {rest : List HostTxn} {e : ErrorCode}
      (hp : s.pending = .write i v :: rest) (hi : i ≠ 0x00 ∧ i ≠ 0x01 ∧ i ≠ 0x02)
      (he : e = .writeRo ∨ e = .badReg) : StepCase s (raiseError e { s with pending := rest })
  /-- A CMD write of an illegal word (R234). -/
  | illegal {w : Word} {rest : List HostTxn} {r : Reject} (hp : s.pending = .write 0x02 w :: rest)
      (hd : decode w = .error r) : StepCase s (raiseError .illegalCmd { s with pending := rest })
  /-- A CMD write of a command (R81). -/
  | command {w : Word} {rest : List HostTxn} {i : Instr} {t : State} (hp : s.pending = .write 0x02 w :: rest)
      (hd : decode w = .ok i) (hx : exec i { s with pending := rest } = .next t)
      (hc : ExecCase { s with pending := rest } i t) : StepCase s t

/-- Every step answers a next state, and which ones. -/
theorem step_cases (s : State) : ∃ t, step s = .next t ∧ StepCase s t := by
  rcases hp : s.pending with _ | ⟨t, rest⟩
  · exact ⟨s, by simp [step, fetch_nil hp], .idle hp⟩
  · have hf := fetch_cons hp
    cases t with
    | read i => exact ⟨_, by rw [step, hf]; rfl, .read hp⟩
    | reset => exact ⟨_, by rw [step, hf]; rfl, .reset hp⟩
    | write i v =>
      by_cases hi : i = 0x02
      · subst hi
        rw [fetchTxn_cmd] at hf
        cases hd : decode v with
        | error r => exact ⟨_, by rw [step, hf, fetchCommand_error hd], .illegal hp hd⟩
        | ok c =>
          obtain ⟨u, hx, hc⟩ := exec_cases c { s with pending := rest }
          exact ⟨u, by rw [step, hf, fetchCommand_ok hd]; exact hx, .command hp hd hx hc⟩
      · rw [fetchTxn_write (fun h => hi ((regAt_cmd_iff i).mp h))] at hf
        rcases writeReg_cases i v { s with pending := rest } with ⟨h0, hw⟩ | ⟨h1, hw⟩ | ⟨h0, h1, e, he, hw⟩
        · subst h0; exact ⟨_, by rw [step, hf, hw], .keyWrite hp⟩
        · subst h1; exact ⟨_, by rw [step, hf, hw], .blockWrite hp⟩
        · exact ⟨_, by rw [step, hf, hw], .badWrite hp ⟨h0, h1, hi⟩ he⟩

/-- The case of a step that answered t. -/
theorem step_inv {s t : State} (h : step s = .next t) : StepCase s t := by
  obtain ⟨u, hu, hc⟩ := step_cases s
  rw [hu] at h
  cases h
  exact hc

end Sys2Proof.Machine
end

