-- ==== Sys2Proof/Tests/Slice0.lean ====
section
/-! SUPPORT. Tests: expected values are the spec's own vectors (95_test_vectors.md) and worked examples, each named in
its comment; and one witness for the hypotheses of each statement. -/

namespace Sys2Proof.Tests
open Sys2Proof.Machine Sys2Proof.Statements

/-- The key of vector K1 (95_test_vectors.md §2). -/
def k1Key : Word := 0x133457799BBCDFF1

/-- The plaintext of vector K1. -/
def k1Plain : Word := 0x0123456789ABCDEF

/-- The ciphertext of vector K1. -/
def k1Cipher : Word := 0x85E813540F0AB405

/-- Reset, with these transactions issued. -/
def issued (l : List HostTxn) : State := { State.reset with pending := l }

/-- Reset, with this KEY and BLOCK. -/
def loaded (k b : Word) : State := { State.reset with key := k, block := b }

/-- What f gives of the next state. -/
def after {α : Type} (o : Host.Outcome State Fault Refusal) (f : State → α) : Option α :=
  match o with
  | .next t => some (f t)
  | .fault _ => none
  | .refused _ => none

/-! ### WellFormed: one ill-formed term for each check -/

theorem smoke_reserved_bit_refused : CmdFields.wf ⟨1, 0, 0x1⟩ = false := by decide
theorem smoke_op_zero_refused : CmdFields.wf ⟨0, 0, 0x0⟩ = false := by decide
theorem smoke_op_seven_refused : CmdFields.wf ⟨0, 0, 0x7⟩ = false := by decide
theorem smoke_dir_with_fround_refused : CmdFields.wf ⟨0, 1, 0x5⟩ = false := by decide
theorem smoke_dir_with_enc_accepted : CmdFields.wf ⟨0, 1, 0x1⟩ = true := by decide
theorem smoke_imm_65_bits_refused : (Stmt.write (.named .key) (2 ^ 64)).wf = false := by decide
theorem smoke_raw_index_9_bits_refused : (Stmt.read (.raw 256)).wf = false := by decide
theorem smoke_rep_zero_refused : (Stmt.rep 0 .enc).wf = false := by decide
theorem smoke_rep_65_refused : (Stmt.rep 65 .enc).wf = false := by decide
theorem smoke_rep_64_accepted : (Stmt.rep 64 .enc).wf = true := by decide
theorem smoke_cmd_imm_65_bits_refused : (Stmt.rawCmd (2 ^ 64)).wf = false := by decide
theorem smoke_encipher_block_65_bits_refused : (Stmt.encipher 0 (2 ^ 64)).wf = false := by decide
theorem smoke_decipher_key_65_bits_refused : (Stmt.decipher (2 ^ 64) 0).wf = false := by decide

/-! ### Decode: the words of R102, field by field (RSVD, DIR, OP), and 95_test_vectors.md §4 -/

theorem test_decode_enc : decode ((0 : BitVec 59) ++ 0b0#1 ++ 0b0001#4) = .ok .enc := by decide
theorem test_decode_dec : decode ((0 : BitVec 59) ++ 0b1#1 ++ 0b0001#4) = .ok .dec := by decide
theorem test_decode_ksload : decode ((0 : BitVec 59) ++ 0b0#1 ++ 0b0010#4) = .ok .ksload := by decide
theorem test_decode_ksnext : decode ((0 : BitVec 59) ++ 0b0#1 ++ 0b0011#4) = .ok .ksnext := by decide
theorem test_decode_floadF : decode ((0 : BitVec 59) ++ 0b0#1 ++ 0b0100#4) = .ok .floadF := by decide
theorem test_decode_floadR : decode ((0 : BitVec 59) ++ 0b1#1 ++ 0b0100#4) = .ok .floadR := by decide
theorem test_decode_fround : decode ((0 : BitVec 59) ++ 0b0#1 ++ 0b0101#4) = .ok .fround := by decide
theorem test_decode_ffinish : decode ((0 : BitVec 59) ++ 0b0#1 ++ 0b0110#4) = .ok .ffinish := by decide

/-- 95_test_vectors.md §4: every illegal word it lists. -/
theorem test_decode_illegal_words :
    ([0x0, 0x10, 0x12, 0x13, 0x15, 0x16, 0x7, 0x8, 0xF, 0x17, 0x1F, 0x20, 0x21, 0x8000000000000001] : List Word).all
      (fun w => (decode w).toOption.isNone) = true := by decide

theorem test_table_word_dec : decodeTableWord 64 0x11 = some .dec := by decide

/-! ### Tables: what their rules say of them (R130, R141, R145, R170, R177, R175) -/

theorem test_tables_in_range : (tableOk 64 pc1C && tableOk 64 pc1D && tableOk 56 pc2Table && tableOk 32 eTable
    && tableOk 32 pTable && tableOk 64 ipTable && tableOk 64 fpTable) = true := by decide +kernel

/-- R141: PC1_C and PC1_D use each non-parity position exactly once. -/
theorem test_pc1_positions : ((List.range 64).map (· + 1)).all (fun p =>
    (pc1C.toList ++ pc1D.toList).count p == if p % 8 = 0 then 0 else 1) = true := by decide +kernel

/-- R145: PC2 leaves out 8 positions and uses the others once. -/
theorem test_pc2_positions : ((List.range 56).map (· + 1)).all (fun p =>
    pc2Table.toList.count p == if p ∈ [9, 18, 22, 25, 35, 38, 43, 54] then 0 else 1) = true := by decide +kernel

/-- R170: E uses 16 positions twice and the others once. -/
theorem test_e_positions : ((List.range 32).map (· + 1)).all (fun p =>
    eTable.toList.count p == if p % 4 ≤ 1 then 2 else 1) = true := by decide +kernel

/-- R177: P uses every position once. -/
theorem test_p_positions : ((List.range 32).map (· + 1)).all (fun p => pTable.toList.count p == 1) = true := by
  decide +kernel

/-- R175: every row of every S-box is a permutation of 0..15. -/
theorem test_sbox_rows : sTable.toList.all (fun t => t.toList.all fun row =>
    (List.range 16).all fun v => row.toList.count (BitVec.ofNat 4 v) == 1) = true := by decide +kernel

/-- R144: the shift schedule and its sums. -/
theorem test_shift_schedule : (List.range 16).map shiftOf = [1, 1, 2, 2, 2, 2, 2, 2, 1, 2, 2, 2, 2, 2, 2, 1] ∧
    (List.range 16).map (fun r => totalShift (r + 1)) = [1, 2, 4, 6, 8, 10, 12, 14, 15, 17, 19, 21, 23, 25, 27, 28] := by
  decide

/-! ### Functions: derived vectors -/

/-- D-P1, D-P2 (R134). -/
theorem test_ip_corners : permute (0x8000000000000000 : Word) ipTable = 0x0000000001000000 ∧
    permute (0x0000000000000001 : Word) ipTable = 0x0000008000000000 := by decide +kernel

/-- D-P6, D-P7 (R171) and D-P9, D-P10 (R177). -/
theorem test_e_and_p_corners : expand 0x00000001 = 0x800000000002 ∧ expand 0x80000000 = 0x400000000001 ∧
    permute (0x80000000 : Half) pTable = 0x00800000 ∧ permute (0x00000001 : Half) pTable = 0x00000800 := by
  decide +kernel

/-- D-P13. -/
theorem test_pc2_corner : pc2 0x8000000 0 = 0x080000000000 := by decide +kernel

/-- D-KS7 (R143). -/
theorem test_rotl_corners : rotl28 0x8000000 1 = 0x0000001 ∧ rotl28 0x8000000 2 = 0x0000002 ∧
    rotl28 0xC000000 2 = 0x0000003 ∧ rotl28 0x4000000 2 = 0x0000001 ∧ rotl28 0xFFFFFFF 1 = 0xFFFFFFF := by decide

/-- D-KS1: the last round key of the schedule of K1's key. -/
theorem test_schedule_last_key : roundKey k1Key 15 = 0xCB3D8B0E17F5 := by decide +kernel

/-- D-F2, D-F3, D-F4, D-F6 (R174, R176). -/
theorem test_sbox_corners : sBox 0 = 0xEFA72C4D ∧ sBox 0xFFFFFFFFFFFF = 0xD9CE3DCB ∧
    sBox (0x21#6 ++ 0#42) = 0xFFA72C4D ∧ sBox (0#42 ++ 0x3F#6) = 0xEFA72C4B := by decide +kernel

/-- D-F7, D-F8 (R179). -/
theorem test_round_function_corners : feistel 0 0 = 0xD8D8DBBC ∧ feistel 0xFFFFFFFF 0 = 0x38DBF9CB := by decide +kernel

/-- K8 (95_test_vectors.md §2). -/
theorem test_encipher_k8 : encipher 0x51454B582DDF440A 0x3849674C2602319E = 0x7178876E01F19B2A := by decide +kernel

/-! ### Commands: one step each -/

/-- The example of R150. -/
theorem test_ksload_example : after (exec .ksload (loaded k1Key 0)) (fun t => (readValue 0x06 t, readValue 0x03 t)) =
    some (0x00F0CCAAF556678F, 0x20) := by decide +kernel

/-- The example of R151. -/
theorem test_ksnext_example : after (exec .ksnext (ksLoad (loaded k1Key 0)))
    (fun t => (readValue 0x05 t, readValue 0x10 t, readValue 0x06 t, t.ksRound)) =
    some (0x00001B02EFFC7072, 0x00001B02EFFC7072, 0x00E19955FAACCF1E, 1) := by decide +kernel

/-- D-KS9. -/
theorem test_ksnext_from_reset : after (exec .ksnext State.reset) statusWord = some 0x0000000000210000 := by decide

/-- D-KS10: the 17th request. -/
theorem test_ksnext_end_of_sequence : after (exec .ksnext { State.reset with ksLoaded := true, ksRound := 16 })
    statusWord = some 0x70 := by decide

/-- The example of R195. -/
theorem test_floadF_example : after (exec .floadF (loaded 0 k1Plain)) (readValue 0x07) = some 0xCC00CCFFF0AAF0AA := by
  decide +kernel

/-- P2: FLOAD.R of K1's ciphertext, and the direction bit. -/
theorem test_floadR_example : after (exec .floadR (loaded 0 k1Cipher)) (fun t => (readValue 0x07 t, readValue 0x03 t)) =
    some (0x0A4CD99543423234, 0x6000) := by decide +kernel

/-- Row 0 of D-D1, with the example of R196. -/
theorem test_fround_example : after (exec .fround { State.reset with
    l := 0xCC00CCFF, r := 0xF0AAF0AA, fLoaded := true, ksLoaded := true, ksRound := 1,
    rk := (Vector.replicate 16 0).set 0 0x1B02EFFC7072 }) (fun t => (readValue 0x07 t, t.rnd)) =
    some (0xF0AAF0AAEF4A6544, 1) := by decide +kernel

/-- The example of R242: ROUNDS_DONE comes before RK_NOT_READY. -/
theorem test_fround_priority : after (exec .fround { State.reset with fLoaded := true, rnd := 16 })
    (fun t => t.errCode) = some 5 := by decide

/-- The example of R197. -/
theorem test_ffinish_example : after (exec .ffinish { State.reset with
    l := 0x43423234, r := 0x0A4CD995, fLoaded := true, rnd := 16 }) (fun t => t.result) = some k1Cipher := by
  decide +kernel

/-- D-D11. -/
theorem test_ffinish_pending : after (exec .ffinish (feistelLoad .forward State.reset)) statusWord =
    some 0x0000000000612000 := by decide

/-- P1: ENC of K1. -/
theorem test_enc_k1 : after (exec .enc (loaded k1Key k1Plain)) (fun t => (t.result, statusWord t, readValue 0x07 t)) =
    some (k1Cipher, 0x3030, 0x434232340A4CD995) := by decide +kernel

/-- The example of R199: DEC of K1. -/
theorem test_dec_k1 : after (exec .dec (loaded k1Key k1Cipher)) (fun t => (t.result, statusWord t)) =
    some (k1Plain, 0x7030) := by decide +kernel

/-! ### Host transactions and errors (95_test_vectors.md §3.5) -/

/-- D-H1. -/
theorem test_write_result : after (step (issued [.write 0x04 1])) (fun t => (statusWord t, t.result)) =
    some (0x0000000000710000, 0) := by decide

/-- D-H2. -/
theorem test_write_unmapped : after (step (issued [.write 0x08 1])) (fun t => (statusWord t, readValue 0x08 t)) =
    some (0x0000000000810000, 0) := by decide

/-- D-H3. -/
theorem test_cmd_zero : after (step (issued [.write 0x02 0])) statusWord = some 0x0000000000110000 := by decide

/-- D-H5. -/
theorem test_read_cmd : after (step (issued [.read 0x02])) (fun t => (t.replies, t.err)) = some ([⟨0x02, 0⟩], false) := by
  decide

/-- D-H9. -/
theorem test_reset_after_error : after (step { issued [.reset] with err := true, errCode := 1 }) statusWord = some 0 := by
  decide

/-- The first step after reset runs the placed word of ENC (R198). -/
theorem test_placed_word_runs : after (step (State.reset.withFetchWord 64 0x1)) (fun t => t.rnd) = some 16 := by decide

/-- The example of R72. -/
theorem test_bytes_of_block : bytesOfBlock k1Plain = #v[0x01, 0x23, 0x45, 0x67, 0x89, 0xAB, 0xCD, 0xEF] := by decide

/-- R88, at base 0x1000: RK15 stands at base + 8 * 0x1F. -/
theorem test_bus_address : busAddress ⟨0x1000⟩ (Reg.rk 15).index = 0x10F8 := by decide

/-- P2 and P4 (R108): statements of the spec's own scripts. -/
theorem test_script_text : parseScript ["RESET", "WRITE KEY, 0x133457799BBCDFF1  # K1", "", "REP 16, KSNEXT",
    "READ RK15", "FLOAD.R", "WRITE @0x08, 0x1", "CMD 0x13"] =
    some [.reset, .write (.named .key) 0x133457799BBCDFF1, .rep 16 .ksnext, .read (.named (.rk 15)), .cmd .floadR,
      .write (.raw 8) 1, .rawCmd 0x13] := by decide +kernel

/-- R108, R109: a repeat count above 64 and an index above 0xFF are no statements. -/
theorem test_script_bounds : parseScript ["REP 65, ENC"] = none ∧ parseScript ["READ @0x100"] = none := by
  decide +kernel

/-- R109: KSALL is 17 transactions, the first KSLOAD and the last KSNEXT. -/
theorem test_expand_ksall : (expandScript [.ksAll]).map (fun l => (l.length, l.head?, l.getLast?)) =
    some (17, some (.write 0x02 0x2), some (.write 0x02 0x3)) := by decide

/-! ### Witnesses: states that meet the hypotheses of each statement -/

theorem witness_decode : decode 0x14 = .ok .floadR := by decide

/-- IllegalWordsRaiseIllegalCmd: one word for each clause, at its bounds. -/
theorem witness_illegal_words :
    (issued [.write 0x02 0x21]).pending = .write 0x02 0x21 :: [] ∧
    ((0x21 : Word).extractLsb' 5 59 ≠ 0 ∧ (0x8000000000000001 : Word).extractLsb' 5 59 ≠ 0) ∧
    (0x10 : Word).extractLsb' 0 4 = 0x0 ∧
    (0x7 ≤ ((0x7 : Word).extractLsb' 0 4).toNat ∧ 0x7 ≤ ((0x1F : Word).extractLsb' 0 4).toNat) ∧
    ((0x12 : Word).extractLsb' 4 1 = 1 ∧ (0x12 : Word).extractLsb' 0 4 = 0x2) ∧
    ((0x16 : Word).extractLsb' 4 1 = 1 ∧ (0x16 : Word).extractLsb' 0 4 = 0x6) := by decide

/-- StepRunsTheDecodedCommand. -/
theorem witness_cmd_write : (issued [.write 0x02 0x5]).pending = .write 0x02 0x5 :: [] ∧ decode 0x5 = .ok .fround := by
  decide

/-- HostTransactionsFollowTheRegisterMap: its clauses where the ranges meet, each run by one step. -/
theorem witness_register_ranges :
    after (step (issued [.read 0x1F])) (fun t => t.replies) = some [⟨0x1F, 0⟩] ∧
    (([0x03, 0x07, 0x10, 0x1F] : List RegIndex).map fun i => after (step (issued [.write i 0])) (fun t => t.errCode)) =
      [some 7, some 7, some 7, some 7] ∧
    (([0x08, 0x0F, 0x20, 0xFF] : List RegIndex).map fun i => after (step (issued [.write i 0])) (fun t => t.errCode)) =
      [some 8, some 8, some 8, some 8] ∧
    (([0x00, 0x01] : List RegIndex).map fun i => after (step (issued [.write i 0])) (fun t => t.err)) =
      [some false, some false] := by decide +kernel

/-- ReadsAreIdempotent. -/
theorem witness_two_reads : (issued [.read 0x0F, .read 0x0F]).pending = .read 0x0F :: .read 0x0F :: [] ∧
    (0x08 ≤ (0x0F : RegIndex).toNat ∧ (0x0F : RegIndex).toNat ≤ 0x0F) ∧ 0x20 ≤ (0x20 : RegIndex).toNat := by decide

/-- KeyWriteDiscardsTheSchedule, in the middle of a running sequence. -/
theorem witness_key_write : ∃ s : State, s.pending = .write 0x00 k1Key :: [] ∧
    ∃ t, step s = .next t ∧ t = scheduleCleared { s with pending := [], key := k1Key } ∧
      t.fLoaded = true ∧ t.rnd.val < 16 :=
  ⟨{ issued [.write 0x00 k1Key] with fLoaded := true, rnd := 15, ksLoaded := true, ksRound := 16 }, rfl, _, rfl, rfl,
    rfl, by decide⟩

/-- BlockWriteDoesNotReachRunningRounds. -/
theorem witness_block_write : (issued [.write 0x01 k1Plain]).pending = .write 0x01 k1Plain :: [] := rfl

/-- ResetLeavesEveryRegisterZero, from a state with an error. -/
theorem witness_reset : ({ issued [.reset] with err := true, errCode := 3 } : State).pending = .reset :: [] := rfl

/-- WithoutTransactionNothingChanges. -/
theorem witness_idle : State.reset.pending = [] := rfl

/-- FirstErrorIsKept: a second error in a state with an error. -/
theorem witness_second_error : ∃ s t : State, step s = .next t ∧ ¬ headIsReset s ∧ s.err = true :=
  ⟨{ issued [.write 0x08 0] with err := true, errCode := 3 }, _, rfl, by simp [headIsReset, issued], rfl⟩

/-- ErrorsArePrecise: a first error. -/
theorem witness_first_error : ∃ s t : State, step s = .next t ∧ ¬ headIsReset s ∧ t.err ≠ s.err ∧ t.errCode ≠ s.errCode :=
  ⟨issued [.write 0x08 0], _, rfl, by simp [headIsReset, issued], by decide, by decide⟩

/-- OnlyTheHostWritesKeyAndBlock: a write of each, and a reset that changes both. -/
theorem witness_key_and_block_change :
    after (step (issued [.write 0x00 k1Key])) (fun t => decide (t.key ≠ 0)) = some true ∧
    after (step (issued [.write 0x01 k1Plain])) (fun t => decide (t.block ≠ 0)) = some true ∧
    after (step { loaded k1Key k1Plain with pending := [.reset] })
      (fun t => decide (t.key ≠ k1Key ∧ t.block ≠ k1Plain)) = some true := by decide

/-- ResultChangesOnlyByFinishing: FFINISH and a reset change RESULT. -/
theorem witness_result_change :
    after (step { issued [.write 0x02 0x6] with l := 0x43423234, r := 0x0A4CD995, fLoaded := true, rnd := 16 })
      (fun t => decide (t.result ≠ 0)) = some true ∧
    after (step { issued [.reset] with result := 1 }) (fun t => decide (t.result ≠ 1)) = some true := by decide +kernel

/-- CountersAdvanceByOne: each way a counter changes. -/
theorem witness_counter_changes :
    after (step { issued [.write 0x02 0x3] with ksLoaded := true, ksRound := 15 }) (fun t => t.ksRound) = some 16 ∧
    after (step { issued [.write 0x02 0x2] with ksLoaded := true, ksRound := 5 }) (fun t => t.ksRound) = some 0 ∧
    after (step { issued [.write 0x00 0] with ksLoaded := true, ksRound := 5 }) (fun t => t.ksRound) = some 0 ∧
    after (step { issued [.reset] with ksRound := 5, rnd := 5 }) (fun t => (t.ksRound, t.rnd)) = some (0, 0) ∧
    after (step (issued [.write 0x02 0x1])) (fun t => (t.ksRound, t.rnd)) = some (16, 16) ∧
    after (step { issued [.write 0x02 0x4] with rnd := 5 }) (fun t => t.rnd) = some 0 ∧
    after (step { issued [.write 0x02 0x5] with fLoaded := true, rnd := 15, ksLoaded := true, ksRound := 16 })
      (fun t => t.rnd) = some 16 := by decide +kernel

/-- CommandsKeepKeyBlockAndHostPort and StepCommandsKeepTheOtherUnit: every command answers. -/
theorem witness_exec_answers (i : Instr) : ∃ t, exec i State.reset = .next t :=
  ⟨(exec_cases i State.reset).choose, (exec_cases i State.reset).choose_spec.1⟩

/-- EveryStepKeepsTheInvariants: the reset state, with a transaction that changes it. -/
theorem witness_invariants : ∃ s t : State, s.Inv ∧ step s = .next t ∧ t ≠ s := by
  refine ⟨issued [.write 0x01 1], _, ⟨⟨fun _ => ⟨rfl, rfl, rfl, rfl⟩, nofun, ?_, ⟨fun _ => rfl, ?_⟩, nofun⟩,
    fun _ => ⟨rfl, rfl, rfl, rfl⟩, by decide, by decide⟩, rfl, by decide⟩
  · intro j; simp [issued, State.reset]
  · intro j h; simp [issued, State.reset] at h

/-- Pc2IgnoresItsUnusedPositions: two values that differ in position 9 alone. -/
theorem witness_pc2_inputs : (0 : BitVec 56) ≠ 0x00800000000000 ∧ ∀ n : Nat, 1 ≤ n → n ≤ 56 →
    n ∉ [9, 18, 22, 25, 35, 38, 43, 54] → desBit (0 : BitVec 56) n = desBit (0x00800000000000 : BitVec 56) n := by
  refine ⟨by decide, fun n h1 h2 hn => ?_⟩
  have h : ∀ m ∈ List.range 57, 1 ≤ m → m ∉ [9, 18, 22, 25, 35, 38, 43, 54] →
      desBit (0 : BitVec 56) m = desBit (0x00800000000000 : BitVec 56) m := by decide +kernel
  exact h n (List.mem_range.mpr (by omega)) h1 hn

/-- RotationWrapsInsideTheField: both amounts, at the wrapping bits. -/
theorem witness_rotation : ((0 + 28 - 1) % 28 = 27 ∧ (0 + 28 - 2) % 28 = 26 ∧ (27 + 28 - 1) % 28 = 26) ∧
    (rotl28 0x8000000 1).getLsbD 0 = true ∧ (rotl28 0x4000000 2).getLsbD 0 = true := by decide

/-- SboxPacksChunkZeroOnTop: the row and column of chunk 0 and chunk 7 of all-ones. -/
theorem witness_sbox_row_col : ∀ i ∈ ([0, 7] : List (Fin 8)),
    (3 : Fin 4).val = 2 * ((0xFFFFFFFFFFFF : RoundKey).getLsbD (47 - 6 * i.val)).toNat
      + ((0xFFFFFFFFFFFF : RoundKey).getLsbD (42 - 6 * i.val)).toNat ∧
    (15 : Fin 16).val = ((0xFFFFFFFFFFFF : RoundKey).extractLsb' (43 - 6 * i.val) 4).toNat := by decide

/-- KsnextAdvancesTheSchedule: no instance, the last key, the end. -/
theorem witness_ksnext_clauses : State.reset.ksLoaded = false ∧
    (({ State.reset with ksLoaded := true, ksRound := 15 } : State).ksLoaded = true ∧
      ({ State.reset with ksLoaded := true, ksRound := 15 } : State).ksRound.val = (15 : Fin 16).val) ∧
    (({ State.reset with ksLoaded := true, ksRound := 16 } : State).ksRound.val = 16) := by decide

/-- FroundPerformsOneRound: each clause, at its bound: not loaded, done, key not ready, key ready in either order. -/
theorem witness_fround_clauses :
    after (exec .fround State.reset) (fun t => t.errCode) = some 3 ∧
    after (exec .fround { State.reset with fLoaded := true, rnd := 16 }) (fun t => t.errCode) = some 5 ∧
    after (exec .fround { State.reset with fLoaded := true, dir := .reverse, ksLoaded := true, ksRound := 15 })
      (fun t => t.errCode) = some 4 ∧
    after (exec .fround { State.reset with fLoaded := true, dir := .reverse, ksLoaded := true, ksRound := 16 })
      (fun t => t.rnd) = some 1 ∧
    after (exec .fround { State.reset with fLoaded := true, rnd := 15, ksLoaded := true, ksRound := 16 })
      (fun t => t.rnd) = some 16 := by decide +kernel

/-- FfinishRecombinesTheHalves and DriverCommandsNeedALoadedState: each clause. -/
theorem witness_ffinish_clauses : State.reset.fLoaded = false ∧
    after (exec .ffinish State.reset) (fun t => t.errCode) = some 3 ∧
    after (exec .ffinish { State.reset with fLoaded := true, rnd := 15 }) (fun t => t.errCode) = some 6 ∧
    after (exec .ffinish { State.reset with fLoaded := true, rnd := 16 }) (fun t => t.err) = some false := by
  decide

/-- ResultDependsOnKeyAndBlockAlone: two different states with one KEY and one BLOCK. -/
theorem witness_same_key_and_block : ∃ s s' : State, s ≠ s' ∧ s.key = s'.key ∧ s.block = s'.block :=
  ⟨loaded k1Key k1Plain, { loaded k1Key k1Plain with rk := Vector.replicate 16 1, ksLoaded := true, ksRound := 16 },
    by decide, rfl, rfl⟩

/-- EncipherAndDecipherAnswerTheHost. -/
theorem witness_pseudo_instructions :
    (issued ((Stmt.encipher k1Key.toNat k1Plain.toNat).expand ++ [.reset])).pending =
      [.write 0x00 k1Key, .write 0x01 k1Plain, .write 0x02 0x1, .read 0x04, .reset] ∧
    (issued ((Stmt.decipher k1Key.toNat k1Cipher.toNat).expand ++ [])).pending =
      [.write 0x00 k1Key, .write 0x01 k1Cipher, .write 0x02 0x11, .read 0x04] := by decide +kernel

/-- SafeRun (R254): a run of one transaction that records no error. -/
theorem witness_safe_run : ∃ t, SafeRun 1 (issued [.write 0x01 k1Plain]) t := ⟨_, rfl, rfl⟩

end Sys2Proof.Tests
end

section
/-! PROOFS. The registers and their invariants (10_state.md): STATUS and the register map, what each command and
each transaction can do to a register, and the invariants of R45. -/

namespace Sys2Proof.Machine
open Sys2Proof.Statements

/-! ### STATUS, field by field (R33) -/

theorem counterBits_toNat (n : Fin 17) : (counterBits n).toNat = n.val := by
  simp only [counterBits, BitVec.toNat_ofNat]
  omega

theorem Direction.bit_eq_ofBool (d : Direction) : d.bit = BitVec.ofBool (decide (d = .reverse)) := by
  cases d <;> rfl

/-- A one-bit field is the bit at its place. -/
theorem getLsbD_of_extractLsb'_one {w i : Nat} {x : BitVec w} {b : Bool}
    (h : x.extractLsb' i 1 = BitVec.ofBool b) : x.getLsbD i = b := by
  have h0 := congrArg (fun y => y.getLsbD 0) h
  simpa using h0

/-- The layout of STATUS, reserved fields included. The `change` spells the width as the sum of the field widths, the
form in which the library's lemmas about appended vectors apply. -/
theorem statusWord_fields (s : State) :
    (statusWord s).extractLsb' 0 5 = counterBits s.ksRound ∧
    (statusWord s).extractLsb' 5 1 = BitVec.ofBool s.ksLoaded ∧
    (statusWord s).extractLsb' 6 1 = BitVec.ofBool s.eos ∧
    (statusWord s).extractLsb' 7 1 = BitVec.ofBool false ∧
    (statusWord s).extractLsb' 8 5 = counterBits s.rnd ∧
    (statusWord s).extractLsb' 13 1 = BitVec.ofBool s.fLoaded ∧
    (statusWord s).extractLsb' 14 1 = s.dir.bit ∧
    (statusWord s).extractLsb' 15 1 = BitVec.ofBool false ∧
    (statusWord s).extractLsb' 16 1 = BitVec.ofBool s.err ∧
    (statusWord s).extractLsb' 17 3 = 0 ∧
    (statusWord s).extractLsb' 20 4 = s.errCode ∧
    (statusWord s).extractLsb' 24 40 = 0 := by
  refine ⟨?_, ?_, ?_, ?_, ?_, ?_, ?_, ?_, ?_, ?_, ?_, ?_⟩
  all_goals
    change BitVec.extractLsb' (n := 40 + 4 + 3 + 1 + 1 + 1 + 1 + 5 + 1 + 1 + 1 + 5) _ _ (statusWord s) = _
    simp (disch := decide) only [statusWord, BitVec.extractLsb'_append_eq_of_le,
      BitVec.extractLsb'_append_eq_of_add_le, BitVec.extractLsb'_eq_self, Nat.sub_self, Nat.reduceSub,
      BitVec.ofBool_false]

/-- Settles O10: each field is the part of the layout that stands at its bits. -/
theorem statusFieldsAtTheirPlaces : Obligations.StatusFieldsAtTheirPlaces := by
  intro s
  obtain ⟨hround, hloaded, heos, h7, hrnd, hfl, hdir, h15, herr, h17, hcode, h24⟩ := statusWord_fields s
  rw [Direction.bit_eq_ofBool] at hdir
  refine ⟨?_, getLsbD_of_extractLsb'_one hloaded, getLsbD_of_extractLsb'_one heos, getLsbD_of_extractLsb'_one h7,
    ?_, getLsbD_of_extractLsb'_one hfl, ?_, getLsbD_of_extractLsb'_one h15, getLsbD_of_extractLsb'_one herr,
    h17, hcode, h24⟩
  · rw [hround, counterBits_toNat]
  · rw [hrnd, counterBits_toNat]
  · rw [getLsbD_of_extractLsb'_one hdir, decide_eq_true_iff]

/-! ### The register map (R30) -/

/-- Every register stands at its index. -/
theorem regAt_index (reg : Reg) : regAt reg.index = some reg := by
  cases reg with
  | rk j => revert j; decide
  | _ => rfl

/-- What an index names stands there: over the 256 indices. -/
theorem index_of_regAt {i : RegIndex} {reg : Reg} (h : regAt i = some reg) : reg.index = i := by
  have hall : ∀ i : RegIndex, (regAt i).all (fun r => r.index == i) = true := by decide +kernel
  simpa [h] using hall i

/-- The unmapped indices, over the 256 indices. -/
theorem regAt_none_iff (i : RegIndex) :
    regAt i = none ↔ (0x08 ≤ i.toNat ∧ i.toNat ≤ 0x0F) ∨ 0x20 ≤ i.toNat := by
  revert i; decide +kernel

/-- Settles O11. -/
theorem registerMapIsOneToOne : Obligations.RegisterMapIsOneToOne :=
  ⟨regAt_index, fun _ _ => index_of_regAt, regAt_none_iff⟩

/-! ### The transaction at the head of the queue -/

theorem headIsReset_of_pending {s : State} {rest : List HostTxn} (hp : s.pending = .reset :: rest) :
    headIsReset s := by
  simp [headIsReset, hp]

theorem headWritesKey_of_pending {s : State} {v : Word} {rest : List HostTxn}
    (hp : s.pending = .write 0x00 v :: rest) : headWritesKey s :=
  ⟨v, by simp [hp]⟩

theorem headCommand_of_pending {s : State} {w : Word} {i : Instr} {rest : List HostTxn}
    (hp : s.pending = .write 0x02 w :: rest) (hd : decode w = .ok i) : headCommand s = some i := by
  simp [headCommand, hp, hd, Except.toOption]

/-- Taking the oldest transaction leaves the others (R76). -/
theorem popTxn_of_pending {s : State} {x : HostTxn} {rest : List HostTxn} (hp : s.pending = x :: rest) :
    popTxn s = { s with pending := rest } := by
  simp [popTxn, hp]

/-! ### What a command, and a transaction, can do to a register -/

/-- No command writes KEY, BLOCK or the host port (R31, R32, R106). -/
theorem ExecCase.frame {s t : State} {i : Instr} (hc : ExecCase s i t) :
    t.key = s.key ∧ t.block = s.block ∧ t.pending = s.pending ∧ t.replies = s.replies := by
  cases hc <;> exact ⟨rfl, rfl, rfl, rfl⟩

/-- Only FFINISH, ENC and DEC write RESULT (R42). -/
theorem ExecCase.result_change {s t : State} {i : Instr} (hc : ExecCase s i t) (hne : t.result ≠ s.result) :
    i = .ffinish ∨ i = .enc ∨ i = .dec := by
  cases hc with
  | finish => exact .inl rfl
  | enc => exact .inr (.inl rfl)
  | dec => exact .inr (.inr rfl)
  | _ => exact absurd rfl hne

/-- How a command changes KS_ROUND (R41). -/
theorem ExecCase.ksRound_change {s t : State} {i : Instr} (hc : ExecCase s i t) (hne : t.ksRound ≠ s.ksRound) :
    (i = .ksnext ∧ t.ksRound.val = s.ksRound.val + 1) ∨ (i = .ksload ∧ t.ksRound = 0) ∨
      ((i = .enc ∨ i = .dec) ∧ t.ksRound.val = 16) := by
  cases hc with
  | ksEmit n hl hr => exact .inl ⟨rfl, by simp [hr]⟩
  | ksload => exact .inr (.inl ⟨rfl, rfl⟩)
  | enc => exact .inr (.inr ⟨.inl rfl, rfl⟩)
  | dec => exact .inr (.inr ⟨.inr rfl, rfl⟩)
  | _ => exact absurd rfl hne

/-- How a command changes RND (R41). -/
theorem ExecCase.rnd_change {s t : State} {i : Instr} (hc : ExecCase s i t) (hne : t.rnd ≠ s.rnd) :
    (i = .fround ∧ t.rnd.val = s.rnd.val + 1) ∨ ((i = .floadF ∨ i = .floadR) ∧ t.rnd = 0) ∨
      ((i = .enc ∨ i = .dec) ∧ t.rnd.val = 16) := by
  cases hc with
  | round n hl hr => exact .inl ⟨rfl, by simp [roundStep, hr]⟩
  | floadF => exact .inr (.inl ⟨.inl rfl, rfl⟩)
  | floadR => exact .inr (.inl ⟨.inr rfl, rfl⟩)
  | enc => exact .inr (.inr ⟨.inl rfl, rfl⟩)
  | dec => exact .inr (.inr ⟨.inr rfl, rfl⟩)
  | _ => exact absurd rfl hne

/-- A command records an error and does nothing else, or leaves the error record alone (R232). -/
theorem ExecCase.error_cases {s t : State} {i : Instr} (hc : ExecCase s i t) :
    (∃ e, t = raiseError e s) ∨ (t.err = s.err ∧ t.errCode = s.errCode) := by
  cases hc with
  | ksNotLoaded | roundNotLoaded | roundsDone | rkNotReady | finishNotLoaded | roundsPending => exact .inl ⟨_, rfl⟩
  | _ => exact .inr ⟨rfl, rfl⟩

/-- A transaction resets the block, or records an error and does nothing else, or leaves the error record alone
(R232, R71). -/
theorem StepCase.error_cases {s t : State} (hc : StepCase s t) :
    (headIsReset s ∧ t = resetBlock (popTxn s)) ∨ (∃ e, t = raiseError e (popTxn s)) ∨
      (t.err = s.err ∧ t.errCode = s.errCode) := by
  cases hc with
  | reset hp => exact .inl ⟨headIsReset_of_pending hp, by rw [popTxn_of_pending hp]⟩
  | badWrite hp | illegal hp => exact .inr (.inl ⟨_, by rw [popTxn_of_pending hp]⟩)
  | command hp hd hx hc =>
    rw [← popTxn_of_pending hp] at hc
    rcases hc.error_cases with he | hsame
    · exact .inr (.inl he)
    · exact .inr (.inr hsame)
  | _ => exact .inr (.inr ⟨rfl, rfl⟩)

/-- Settles O23, from the commands' cases. -/
theorem commandsKeepKeyBlockAndHostPort : Obligations.CommandsKeepKeyBlockAndHostPort :=
  fun _ _ _ h => (exec_inv h).frame

/-- Settles O20: the two writes and the reset are the only cases in which KEY or BLOCK differs. -/
theorem onlyTheHostWritesKeyAndBlock : Obligations.OnlyTheHostWritesKeyAndBlock := by
  intro s t h
  refine ⟨fun hne => ?_, fun hne => ?_⟩
  · cases step_inv h with
    | keyWrite hp => exact .inl (by simp [hp])
    | reset hp => exact .inr ⟨headIsReset_of_pending hp, rfl⟩
    | command hp hd hx hc =>
      obtain ⟨hkey, -⟩ := hc.frame
      exact absurd hkey hne
    | _ => exact absurd rfl hne
  · cases step_inv h with
    | blockWrite hp => exact .inl (by simp [hp])
    | reset hp => exact .inr ⟨headIsReset_of_pending hp, rfl⟩
    | command hp hd hx hc =>
      obtain ⟨-, hblock, -⟩ := hc.frame
      exact absurd hblock hne
    | _ => exact absurd rfl hne

/-- Settles O21. -/
theorem resultChangesOnlyByFinishing : Obligations.ResultChangesOnlyByFinishing := by
  intro s t h hne
  cases step_inv h with
  | reset hp => exact .inl (headIsReset_of_pending hp)
  | command hp hd hx hc =>
    rw [headCommand_of_pending hp hd]
    exact .inr (by simpa using hc.result_change hne)
  | _ => exact absurd rfl hne

/-- Settles O22: a command's own case, or the clearing by a KEY write or a reset. -/
theorem countersAdvanceByOne : Obligations.CountersAdvanceByOne := by
  intro s t h
  refine ⟨fun hne => ?_, fun hne => ?_⟩
  · cases step_inv h with
    | reset hp => exact .inr (.inl ⟨.inl (headIsReset_of_pending hp), rfl⟩)
    | keyWrite hp => exact .inr (.inl ⟨.inr (.inl (headWritesKey_of_pending hp)), rfl⟩)
    | command hp hd hx hc =>
      rw [headCommand_of_pending hp hd]
      rcases hc.ksRound_change hne with ⟨rfl, hv⟩ | ⟨rfl, h0⟩ | ⟨hi, h16⟩
      · exact .inl ⟨rfl, hv⟩
      · exact .inr (.inl ⟨.inr (.inr rfl), h0⟩)
      · exact .inr (.inr ⟨by simpa using hi, h16⟩)
    | _ => exact absurd rfl hne
  · cases step_inv h with
    | reset hp => exact .inr (.inl ⟨.inl (headIsReset_of_pending hp), rfl⟩)
    | command hp hd hx hc =>
      rw [headCommand_of_pending hp hd]
      rcases hc.rnd_change hne with ⟨rfl, hv⟩ | ⟨hi, h0⟩ | ⟨hi, h16⟩
      · exact .inl ⟨rfl, hv⟩
      · exact .inr (.inl ⟨.inr (by simpa using hi), h0⟩)
      · exact .inr (.inr ⟨by simpa using hi, h16⟩)
    | _ => exact absurd rfl hne

/-- Settles O18: a recorded error leaves an earlier one's code, and nothing else but a reset writes the record. -/
theorem firstErrorIsKept : Obligations.FirstErrorIsKept := by
  intro s t h hreset herr
  rcases (step_inv h).error_cases with ⟨hr, -⟩ | ⟨e, rfl⟩ | ⟨hsame, hcode⟩
  · exact absurd hr hreset
  · simp [herr]
  · exact ⟨hsame.trans herr, hcode⟩

/-! ### The invariant of the errors (R44, R45) -/

/-- Recording an error keeps the error invariant: every code is one of 1 to 8 (R233). -/
theorem State.ErrorInv.raiseError {s : State} (h : s.ErrorInv) (e : ErrorCode) :
    (raiseError e s).ErrorInv := by
  obtain ⟨hiff, hle⟩ := h
  obtain ⟨hpos, hle8⟩ := e.code_range
  have hcode : e.code ≠ 0 := fun h0 => by simp [h0] at hpos
  cases herr : s.err with
  | true => exact ⟨by simpa [herr] using hiff, by simpa [herr] using hle⟩
  | false => exact ⟨by simpa [herr] using hcode, by simpa [herr] using hle8⟩

/-- The error invariant reads the error record alone. -/
theorem State.ErrorInv.congr {s t : State} (h : s.ErrorInv) (herr : t.err = s.err) (hcode : t.errCode = s.errCode) :
    t.ErrorInv := by
  rw [State.ErrorInv, herr, hcode]
  exact h

theorem errorInv_resetBlock (s : State) : (resetBlock s).ErrorInv := by
  simp [State.ErrorInv]

theorem StepCase.errorInv {s t : State} (hc : StepCase s t) (h : s.ErrorInv) : t.ErrorInv := by
  rcases hc.error_cases with ⟨-, rfl⟩ | ⟨e, rfl⟩ | ⟨herr, hcode⟩
  · exact errorInv_resetBlock _
  · exact State.ErrorInv.raiseError (s := popTxn s) h e
  · exact h.congr herr hcode

/-! ### The invariant of the driver (R36, R45) -/

theorem ExecCase.feistelInv {s t : State} {i : Instr} (hc : ExecCase s i t) (h : s.FeistelInv) : t.FeistelInv := by
  cases hc with
  | round n hl => exact fun hu => absurd hl (by simpa [roundStep] using hu)
  | floadF | floadR | enc | dec => exact nofun
  | _ => exact h

theorem StepCase.feistelInv {s t : State} (hc : StepCase s t) (h : s.FeistelInv) : t.FeistelInv := by
  cases hc with
  | reset => exact fun _ => ⟨rfl, rfl, rfl, rfl⟩
  | command hp hd hx hc => exact hc.feistelInv h
  | _ => exact h

/-! ### The invariant of the key schedule (R34, R35, R38, R45, R46) -/

/-- The registers that the key-schedule invariant reads. -/
def State.scheduleRegs (s : State) :
    Word × KeyHalf × KeyHalf × Vector RoundKey 16 × RoundKey × Fin 17 × Bool × Bool :=
  (s.key, s.c, s.d, s.rk, s.kout, s.ksRound, s.ksLoaded, s.eos)

theorem State.KeyScheduleInv.congr {s t : State} (h : s.KeyScheduleInv) (ht : t.scheduleRegs = s.scheduleRegs) :
    t.KeyScheduleInv := by
  simp only [State.scheduleRegs, Prod.mk.injEq] at ht
  obtain ⟨hkey, hc, hd, hrk, hkout, hround, hloaded, heos⟩ := ht
  obtain ⟨hunloaded, hrotated, hkeys, hemitted, hended⟩ := h
  constructor <;> simp only [hkey, hc, hd, hrk, hkout, hround, hloaded, heos] <;> assumption

/-- A cleared schedule meets the invariant. -/
theorem keyScheduleInv_clearSchedule (s : State) : (clearSchedule s).KeyScheduleInv where
  unloaded _ := ⟨rfl, rfl, rfl, rfl⟩
  rotated := nofun
  roundKeys j := by simp
  emitted := ⟨fun _ => rfl, by simp⟩
  ended := nofun

/-- Every point of the walk that KSLOAD begins meets the invariant. -/
theorem keyScheduleInv_scheduleAt (s : State) (n : Fin 17) : (scheduleAt s n).KeyScheduleInv where
  unloaded := nofun
  rotated _ := by simp [scheduleAt, halvesAfter_eq s.key n.val (by omega)]
  roundKeys j := by simp [scheduleAt, emittedKeys]
  emitted := by
    refine ⟨fun h => by simp_all [scheduleAt], fun j hj => ?_⟩
    have hn : n.val = j.val + 1 := hj
    simp [scheduleAt, emittedKeys, hn]
  ended := nofun

/-- Conversely, with a loaded schedule and EOS clear the invariant fixes every schedule register: the state is a point
of the walk. This is what makes the invariant inductive over KSNEXT. -/
theorem State.KeyScheduleInv.eq_scheduleAt {s : State} (h : s.KeyScheduleInv) (hl : s.ksLoaded = true)
    (he : s.eos = false) : s = scheduleAt s s.ksRound := by
  obtain ⟨hc, hd⟩ := h.rotated hl
  obtain ⟨hzero, hlast⟩ := h.emitted
  have hhalves := halvesAfter_eq s.key s.ksRound.val (by omega)
  have hrk : s.rk = emittedKeys s.key s.ksRound.val := by
    apply Vector.ext
    intro j hj
    simpa [emittedKeys] using h.roundKeys ⟨j, hj⟩
  have hkout : s.kout = if s.ksRound.val = 0 then 0 else roundKey s.key (s.ksRound.val - 1) := by
    split
    case isTrue h0 => exact hzero (Fin.ext h0)
    case isFalse h0 =>
      have hlt : s.ksRound.val - 1 < s.ksRound.val := by omega
      rw [hlast ⟨s.ksRound.val - 1, by omega⟩ (Nat.sub_add_cancel (by omega)).symm, hrk]
      simp [emittedKeys, hlt]
  rw [scheduleAt, hhalves, ← hc, ← hd, ← hkout, ← hrk, ← hl, ← he]

/-- KSNEXT with a key left takes the walk one step on. -/
theorem State.KeyScheduleInv.ksEmit {s : State} (h : s.KeyScheduleInv) {n : Fin 16} (hl : s.ksLoaded = true)
    (hr : s.ksRound = n.castSucc) : (ksEmit n s).KeyScheduleInv := by
  have hne : s.ksRound.val ≠ 16 := by rw [hr]; exact n.isLt.ne
  have he : s.eos = false := Bool.eq_false_iff.mpr fun hset => hne (h.ended hset).2
  have hs : s = scheduleAt s n.castSucc := hr ▸ h.eq_scheduleAt hl he
  have hnext : Except.ok (Machine.ksEmit n s) = Except.ok (scheduleAt s n.succ) :=
    calc Except.ok (Machine.ksEmit n s)
      _ = ksNext s := (ksNext_emit hl n (by simp [hr])).symm
      _ = ksNext (scheduleAt s n.castSucc) := congrArg ksNext hs
      _ = Except.ok (scheduleAt s n.succ) := ksNext_scheduleAt s n
  rw [Except.ok.inj hnext]
  exact keyScheduleInv_scheduleAt s n.succ

/-- KSNEXT after the last key sets EOS (R35, R231). -/
theorem State.KeyScheduleInv.setEos {s : State} (h : s.KeyScheduleInv) (hl : s.ksLoaded = true)
    (hr : s.ksRound = 16) : ({ s with eos := true } : State).KeyScheduleInv where
  unloaded hu := absurd hl (by simpa using hu)
  rotated := h.rotated
  roundKeys := h.roundKeys
  emitted := h.emitted
  ended _ := ⟨hl, congrArg Fin.val hr⟩

theorem ExecCase.keyScheduleInv {s t : State} {i : Instr} (hc : ExecCase s i t) (h : s.KeyScheduleInv) :
    t.KeyScheduleInv := by
  cases hc with
  | ksload => rw [ksLoad_eq_scheduleAt]; exact keyScheduleInv_scheduleAt s 0
  | ksEmit n hl hr => exact h.ksEmit hl hr
  | ksEnd hl hr => exact h.setEos hl hr
  | enc | dec => exact (keyScheduleInv_scheduleAt s 16).congr rfl
  | _ => exact h.congr rfl

theorem StepCase.keyScheduleInv {s t : State} (hc : StepCase s t) (h : s.KeyScheduleInv) : t.KeyScheduleInv := by
  cases hc with
  | reset => exact (keyScheduleInv_clearSchedule State.reset).congr rfl
  | keyWrite => exact keyScheduleInv_clearSchedule _
  | command hp hd hx hc => exact hc.keyScheduleInv (h.congr rfl)
  | _ => exact h.congr rfl

/-! ### All invariants -/

/-- Settles O25: each of the three parts is kept by every case of a step. -/
theorem everyStepKeepsTheInvariants : Obligations.EveryStepKeepsTheInvariants := by
  intro s t h hstep
  have hc := step_inv hstep
  exact ⟨hc.keyScheduleInv h.keySchedule, hc.feistelInv h.feistel, hc.errorInv h.errors⟩

/-- Settles O26: the reset state has a cleared schedule, an unloaded driver and no error. -/
theorem resetMeetsTheInvariants : Obligations.ResetMeetsTheInvariants where
  keySchedule := keyScheduleInv_clearSchedule State.reset
  feistel _ := ⟨rfl, rfl, rfl, rfl⟩
  errors := errorInv_resetBlock State.reset

end Sys2Proof.Machine
end

section
/-! PROOFS. The host interface (20_memory.md): what each transaction does by its index, that reads repeat, what a KEY
write discards and a BLOCK write leaves alone, and the byte view of a block. -/

namespace Sys2Proof.Machine

/-! ### What a register write does outside KEY and BLOCK (R78) -/

/-- A mapped register other than KEY, BLOCK and CMD is read-only (R78, R240). -/
theorem writeReg_readOnly {i : RegIndex} (hmap : regAt i ≠ none) (h0 : i ≠ 0x00) (h1 : i ≠ 0x01) (v : Word)
    (s : State) : writeReg i v s = raiseError .writeRo s := by
  cases h : regAt i with
  | none => exact absurd h hmap
  | some reg =>
    cases reg with
    | key => exact absurd ((regAt_key_iff i).mp h) h0
    | block => exact absurd ((regAt_block_iff i).mp h) h1
    | _ => simp [writeReg, h]

/-- A write to an unmapped index (R78, R241). -/
theorem writeReg_unmapped {i : RegIndex} (h : regAt i = none) (v : Word) (s : State) :
    writeReg i v s = raiseError .badReg s := by
  simp [writeReg, h]

/-! ### What a read returns (R70, R75, R77) -/

theorem readValue_unmapped {i : RegIndex} (h : regAt i = none) (s : State) : readValue i s = 0 := by
  simp [readValue, h]

/-- An entry of the round-key file reads zero-extended (R75). -/
theorem readValue_rk {i : RegIndex} (h : 0x10 ≤ i.toNat ∧ i.toNat ≤ 0x1F) (s : State) :
    readValue i s = s.rk[Fin.ofNat 16 (i.toNat - 0x10)].setWidth 64 := by
  rw [readValue, regAt_rk i h]
  rfl

/-! ### One step, by the transaction at the head of the queue (R70, R76, R81) -/

section
variable {s : State} {rest : List HostTxn}

theorem step_of_read {i : RegIndex} (hp : s.pending = .read i :: rest) :
    step s = .next (recordRead i { s with pending := rest }) := by
  rw [step, fetch_cons hp, fetchTxn_read]

theorem step_of_regWrite {i : RegIndex} {v : Word} (hp : s.pending = .write i v :: rest) (hi : i ≠ 0x02) :
    step s = .next (writeReg i v { s with pending := rest }) := by
  rw [step, fetch_cons hp, fetchTxn_write (mt (regAt_cmd_iff i).mp hi)]

theorem step_of_keyWrite {v : Word} (hp : s.pending = .write 0x00 v :: rest) :
    step s = .next (clearSchedule { s with pending := rest, key := v }) :=
  step_of_regWrite hp (by decide)

theorem step_of_blockWrite {v : Word} (hp : s.pending = .write 0x01 v :: rest) :
    step s = .next { s with pending := rest, block := v } :=
  step_of_regWrite hp (by decide)

theorem step_of_command {w : Word} {i : Instr} (hp : s.pending = .write 0x02 w :: rest) (hd : decode w = .ok i) :
    step s = exec i { s with pending := rest } := by
  rw [step, fetch_cons hp, fetchTxn_cmd, fetchCommand_ok hd]

theorem step_of_illegal {w : Word} {e : Reject} (hp : s.pending = .write 0x02 w :: rest)
    (hd : decode w = .error e) : step s = .next (raiseError .illegalCmd { s with pending := rest }) := by
  rw [step, fetch_cons hp, fetchTxn_cmd, fetchCommand_error hd]

end

/-- A run of one step more goes on from the step's next state. -/
theorem core_run_succ {n : Nat} {s t : State} (h : step s = .next t) : core.run (n + 1) s = core.run n t := by
  simp only [Host.Core.run, core, h]

/-- Settles O6: the two answers of the decoder. -/
theorem stepRunsTheDecodedCommand : Obligations.StepRunsTheDecodedCommand := by
  intro s w rest hp
  cases hd : decode w with
  | ok i => exact step_of_command hp hd
  | error e => exact step_of_illegal hp hd

/-- A row of 64 bits is the word itself. -/
theorem tableWord_toNat (w : Word) : tableWord 64 w.toNat = w := by
  rw [tableWord, Nat.mod_eq_of_lt w.isLt, BitVec.ofNat_toNat, BitVec.setWidth_eq]

theorem withFetchWord_pending (s : State) (w : Word) :
    (s.withFetchWord 64 w.toNat).pending = .write 0x02 w :: s.pending := by
  rw [State.withFetchWord, placeCommand, tableWord_toNat]

/-- Settles O7: taking the placed word from the queue gives the state as it was before the placing. -/
theorem placedWordRunsNext : Obligations.PlacedWordRunsNext :=
  fun s w => stepRunsTheDecodedCommand _ w s.pending (withFetchWord_pending s w)

/-- Settles O8: the indices one by one, then the round-key file, then the unmapped rest. -/
theorem hostTransactionsFollowTheRegisterMap : Obligations.HostTransactionsFollowTheRegisterMap := by
  intro s i v rest
  refine ⟨fun hp => ?_, fun hp => ?_⟩
  · rw [step_of_read hp, recordRead, readValue_hostPort i s rest s.replies]
    congr
    iterate 8
      split
      · next h => subst h; rfl
    split
    · next hrk => exact readValue_rk hrk s
    · have hmap : regAt i = none := by rw [regAt_none_iff]; bv_omega
      exact readValue_unmapped hmap s
  · split_ifs with h0 h1 h2 hro
    · subst h0
      exact step_of_keyWrite hp
    · subst h1
      exact step_of_blockWrite hp
    · subst h2
      exact stepRunsTheDecodedCommand s v rest hp
    · have hmap : regAt i ≠ none := by rw [ne_eq, regAt_none_iff]; omega
      rw [step_of_regWrite hp h2, writeReg_readOnly hmap h0 h1]
      rfl
    · have hmap : regAt i = none := by rw [regAt_none_iff]; bv_omega
      rw [step_of_regWrite hp h2, writeReg_unmapped hmap]
      rfl

/-- Settles O9: the first read leaves what the second one returns. -/
theorem readsAreIdempotent : Obligations.ReadsAreIdempotent := by
  intro s i rest hp
  refine ⟨readValue i s, ?_, fun hi => ?_⟩
  · rw [core_run_succ (step_of_read hp), core_run_succ (step_of_read rfl)]
    simp [Host.Core.run, recordRead]
  · rcases hi with rfl | hun
    · rfl
    · exact readValue_unmapped ((regAt_none_iff i).mpr hun) s

/-! ### What a command answers in each of its cases -/

/-- The converse of `exec_inv`: the case of a command determines its answer. -/
theorem ExecCase.exec_eq {s t : State} {i : Instr} (hc : ExecCase s i t) : exec i s = .next t := by
  cases hc with
  | ksload | floadF | floadR => rfl
  | ksNotLoaded hl => simp [exec, execKsnext, ksNext, hl]
  | ksEmit n hl hr => simp [exec, execKsnext, ksNext_emit hl n (by simp [hr])]
  | ksEnd hl hr => simp [exec, execKsnext, ksNext, hl, hr]
  | roundNotLoaded hl => simp [exec, execFround, feistelNext, hl]
  | roundsDone hl hr => simp [exec, execFround, feistelNext, hl, hr]
  | rkNotReady n hl hr hk => simp [exec, execFround, feistelNext, hl, hr, hk]
  | round n hl hr hk => simp [exec, execFround, feistelNext_ready hl n (by simp [hr]) hk]
  | finishNotLoaded hl => simp [exec, execFfinish, feistelFinish, hl]
  | roundsPending hl hr =>
    have hv : s.rnd.val ≠ 16 := fun h => hr (Fin.ext h)
    simp [exec, execFfinish, feistelFinish, hl, hv]
  | finish hl hr => simp [exec, execFfinish, feistelFinish, hl, hr]
  | enc => simp [exec, execEnc, cipherBlock_eq]
  | dec => simp [exec, execDec, cipherBlock_eq]

/-- A round whose key is not ready, by the value of RND (R237). -/
theorem exec_fround_rkNotReady {s : State} (hl : s.fLoaded = true) (hr : s.rnd.val < 16)
    (hk : keyReady s (keyIndex s.dir s.rnd.val) = false) : exec .fround s = .next (raiseError .rkNotReady s) :=
  (ExecCase.rkNotReady ⟨s.rnd.val, hr⟩ hl rfl hk).exec_eq

/-- No round key is ready without a schedule instance (R46). -/
theorem keyReady_of_not_ksLoaded {s : State} (hl : s.ksLoaded = false) (j : Fin 16) : keyReady s j = false := by
  simp [keyReady, hl]

/-- Settles O12: the cleared schedule has no instance, which is what both errors come from. -/
theorem keyWriteDiscardsTheSchedule : Obligations.KeyWriteDiscardsTheSchedule := by
  intro s v rest hp
  refine ⟨_, step_of_keyWrite hp, rfl, ?_, fun hf hr => ?_⟩
  · exact (ExecCase.ksNotLoaded rfl).exec_eq
  · exact exec_fround_rkNotReady hf hr (keyReady_of_not_ksLoaded rfl _)

/-- A step command other than FLOAD is in the same case, with the same effect, whatever BLOCK holds: no guard
and no update of its cases reads BLOCK (R80, R268). -/
theorem ExecCase.withBlock {s t : State} {i : Instr} (hc : ExecCase s i t)
    (hi : i ∈ ([.ksload, .ksnext, .fround, .ffinish] : List Instr)) (v : Word) :
    ExecCase { s with block := v } i { t with block := v } := by
  cases hc with
  | floadF | floadR | enc | dec => simp at hi
  | _ => constructor <;> assumption

/-- Settles O13: the case of a command with the old BLOCK is its case with the new one. -/
theorem blockWriteDoesNotReachRunningRounds : Obligations.BlockWriteDoesNotReachRunningRounds := by
  refine ⟨fun _ _ _ hp => step_of_blockWrite hp, fun i hi s v => ?_⟩
  obtain ⟨t, ht, hc⟩ := exec_cases i s
  exact ⟨t, ht, (hc.withBlock hi v).exec_eq⟩

/-! ### The byte view of a block (R72) -/

/-- Bit n of byte j, counted from the top, is DES bit 8j + n + 1. -/
theorem byteOf_getMsbD (v : Word) (j n : Fin 8) : (byteOf v j).getMsbD n.val = desBit v (8 * j.val + n.val + 1) := by
  have hbit : 56 - 8 * j.val + (7 - n.val) = 64 - (8 * j.val + n.val + 1) := by omega
  have hn : 7 - n.val < 8 := by omega
  simp [byteOf, desBit, BitVec.getMsbD_eq_getLsbD, hn, hbit]

/-- The bytes determine the block: position p stands in byte p / 8. -/
theorem eq_of_byteOf_eq {v w : Word} (h : ∀ j, byteOf v j = byteOf w j) : v = w := by
  apply BitVec.eq_of_getMsbD_eq
  intro p hp
  have hbyte := byteOf_getMsbD v ⟨p / 8, by omega⟩ ⟨p % 8, by omega⟩
  rw [h, byteOf_getMsbD] at hbyte
  simpa [desBit_eq_getMsbD, Nat.div_add_mod, hp] using hbyte.symm

/-- Byte j of a block made of bytes is the j-th of them. The `change` spells the width as the sum of the byte widths,
as for the fields of STATUS. -/
theorem byteOf_blockOfBytes (b : Vector (BitVec 8) 8) (j : Fin 8) : byteOf (blockOfBytes b) j = b[j] := by
  change BitVec.extractLsb' (n := 8 + 8 + 8 + 8 + 8 + 8 + 8 + 8) _ _ (blockOfBytes b) = _
  fin_cases j
  all_goals
    simp (disch := decide) only [blockOfBytes, BitVec.extractLsb'_append_eq_of_le,
      BitVec.extractLsb'_append_eq_of_add_le, BitVec.extractLsb'_eq_self, Nat.sub_self]
    rfl

theorem blockOfBytes_bytesOfBlock (v : Word) : blockOfBytes (bytesOfBlock v) = v := by
  refine eq_of_byteOf_eq fun j => ?_
  rw [byteOf_blockOfBytes]
  simp [bytesOfBlock]

/-- Settles O14: blocks with the same bytes are equal, so one inverse gives the other. -/
theorem blockBytesAreBigEndian : Obligations.BlockBytesAreBigEndian :=
  ⟨blockOfBytes_bytesOfBlock, byteOf_blockOfBytes, byteOf_getMsbD, by decide⟩

end Sys2Proof.Machine
end

section
/-! PROOFS. The encoding (30_encoding.md): the decoder and the encoder as inverses, what the whole-block commands are
made of, and the pseudo-instructions that the host issues. -/

namespace Sys2Proof

/-! ### The decoder, read through the opcode map (R101, R102) -/

/-- Every command's word has the fields of its row, and they are legal. -/
theorem wordFields (i : Instr) : Laws.WordFields.Statement i := by
  cases i with
  | enc => exact Laws.WordFields.enc
  | dec => exact Laws.WordFields.dec
  | ksload => exact Laws.WordFields.ksload
  | ksnext => exact Laws.WordFields.ksnext
  | floadF => exact Laws.WordFields.floadF
  | floadR => exact Laws.WordFields.floadR
  | fround => exact Laws.WordFields.fround
  | ffinish => exact Laws.WordFields.ffinish

/-- A word is determined by its fields (R100). -/
theorem cmdFields_injective : Function.Injective cmdFields := by
  intro v w h
  obtain ⟨hrsvd, hdir, hop⟩ := CmdFields.mk.inj h
  rw [word_of_fields v, word_of_fields w, hrsvd, hdir, hop]

/-- Row by row, over the 32 pairs of OP and DIR. -/
theorem decodeOpDir_ok_iff (op : BitVec 4) (dir : BitVec 1) (i : Instr) :
    decodeOpDir op dir = .ok i ↔ (⟨0, dir, op⟩ : CmdFields) = i.fields := by
  cases i
  all_goals revert op dir; decide

theorem decodeOpDir_isOk (op : BitVec 4) (dir : BitVec 1) :
    (decodeOpDir op dir).isOk = (⟨0, dir, op⟩ : CmdFields).wf := by
  revert op dir; decide

theorem cmdFields_of_reserved_zero {w : Word} (h : rsvdOf w = 0) : cmdFields w = ⟨0, dirOf w, opOf w⟩ := by
  rw [cmdFields, h]

theorem Instr.fields_rsvd (i : Instr) : i.fields.rsvd = 0 := by
  cases i <;> rfl

/-- Decoding reads a row's fields, and no others as that row. -/
theorem decode_ok_iff_cmdFields (w : Word) (i : Instr) : decode w = .ok i ↔ cmdFields w = i.fields := by
  by_cases h : rsvdOf w = 0
  · rw [decode_of_reserved_zero h, cmdFields_of_reserved_zero h]
    exact decodeOpDir_ok_iff _ _ i
  · rw [decode_of_reserved h]
    exact iff_of_false nofun fun hf => h ((congrArg CmdFields.rsvd hf).trans i.fields_rsvd)

theorem decode_ok_iff_encode (w : Word) (i : Instr) : decode w = .ok i ↔ w = encode i := by
  obtain ⟨hfields, -, -⟩ := wordFields i
  rw [decode_ok_iff_cmdFields, ← hfields, cmdFields_injective.eq_iff]

theorem decode_encode (i : Instr) : decode (encode i) = .ok i :=
  (decode_ok_iff_encode _ i).mpr rfl

/-- Settles O2: a word is determined by its fields, so the word of a row is the only one that decodes to it. -/
theorem encodeAndDecodeAreInverse : Obligations.EncodeAndDecodeAreInverse := by
  refine ⟨fun i => ?_, fun w i h => ((decode_ok_iff_encode w i).mp h).symm⟩
  obtain ⟨hfields, -, hwf⟩ := wordFields i
  exact ⟨hwf, hfields, decode_encode i⟩

/-- Settles O1: the list pairs each command with its word. -/
theorem decodeAcceptsExactlyTheOpcodeMap : Obligations.DecodeAcceptsExactlyTheOpcodeMap := by
  intro w i
  rw [decode_ok_iff_encode]
  cases i <;> simp [encode]

theorem CmdFields.wf_of_reserved {f : CmdFields} (h : f.rsvd ≠ 0) : f.wf = false := by
  rw [CmdFields.wf, CmdFields.reservedZero, beq_false_of_ne h, Bool.false_and, Bool.false_and]

/-- Whether a word is decoded is what the three checks of the format say (R101, R104, R105). -/
theorem decode_isOk (w : Word) : (decode w).isOk = (cmdFields w).wf := by
  by_cases h : rsvdOf w = 0
  · rw [decode_of_reserved_zero h, cmdFields_of_reserved_zero h, decodeOpDir_isOk]
  · rw [decode_of_reserved h, CmdFields.wf_of_reserved (f := cmdFields w) h]
    rfl

/-- Settles O3: the three checks are when the decoder accepts. -/
theorem decodeAcceptsExactlyTheLegalFields : Obligations.DecodeAcceptsExactlyTheLegalFields := by
  intro w
  rw [← decode_isOk]
  cases decode w with
  | ok i => exact iff_of_true ⟨i, rfl⟩ rfl
  | error e => exact iff_of_false nofun nofun

end Sys2Proof

namespace Sys2Proof.Machine
open Sys2Proof.Statements

/-! ### Sequences of commands (R109) -/

theorem runCommands_cons {i : Instr} {s t : State} (h : exec i s = .next t) (is : List Instr) :
    runCommands (i :: is) s = runCommands is t := by
  simp [runCommands, h]

theorem runCommands_singleton (i : Instr) (s : State) : runCommands [i] s = exec i s := by
  obtain ⟨t, ht, -⟩ := exec_cases i s
  rw [runCommands_cons ht, ht, runCommands]

/-- Repeating a command inside an atomic command, when it raises nothing, is issuing it that often. -/
theorem runCommands_replicate {i : Instr} {f : State → CmdResult} (hi : ∀ s, exec i s = complete s (f s))
    (is : List Instr) {n : Nat} {s t : State} (h : repeatCmd n f s = .ok t) :
    runCommands (List.replicate n i ++ is) s = runCommands is t := by
  induction n generalizing s with
  | zero => cases h; rfl
  | succ n ih =>
    cases hf : f s with
    | error e => simp [repeatCmd, hf] at h
    | ok u =>
      rw [repeatCmd_succ n hf] at h
      rw [List.replicate_succ, List.cons_append, runCommands_cons (by rw [hi, hf, complete_ok]), ih h]

/-- KSALL leaves the complete schedule (R147, R152). -/
theorem runCommands_ksAll (is : List Instr) (s : State) :
    runCommands (ksAllCommands ++ is) s = runCommands is (scheduleAt s 16) := by
  rw [ksAllCommands, List.cons_append, runCommands_cons (t := ksLoad s) rfl,
    runCommands_replicate (f := ksNext) (fun _ => rfl) is (repeat_ksNext s)]

/-- FLOAD ; ROUNDS on a complete schedule performs all 16 rounds (R193). -/
theorem runCommands_load_rounds {load : Instr} {d : Direction} (hload : ∀ s, exec load s = .next (feistelLoad d s))
    (is : List Instr) {s : State} (hl : s.ksLoaded = true) (hn : s.ksRound = 16) :
    runCommands (load :: (List.replicate 16 .fround ++ is)) s = runCommands is (roundsAt s s.rk d 16) := by
  rw [runCommands_cons (hload s),
    runCommands_replicate (f := feistelNext) (fun _ => rfl) is (repeat_feistelNext s d hl hn)]

/-- The micro-sequence ends in FFINISH after the rounds (R198, R199). -/
theorem cipherBlock_eq_feistelFinish (d : Direction) (s : State) :
    cipherBlock d s = feistelFinish (roundsAt (scheduleAt s 16) (scheduleAt s 16).rk d 16) := by
  simp only [cipherBlock, repeat_ksNext, repeat_feistelNext (scheduleAt s 16) d rfl rfl, bind, Except.bind]

/-- The step sequence of a direction answers what its micro-sequence answers: both end in the same FFINISH, and
neither raises an error. -/
theorem runCommands_stepSequence {load : Instr} {d : Direction}
    (hload : ∀ s, exec load s = .next (feistelLoad d s)) (s : State) :
    runCommands (stepSequence load) s = complete s (cipherBlock d s) := by
  have hseq : stepSequence load = ksAllCommands ++ load :: (List.replicate 16 .fround ++ [.ffinish]) := by
    simp [stepSequence]
  have hfinish : exec .ffinish (roundsAt (scheduleAt s 16) (scheduleAt s 16).rk d 16) =
      complete s (cipherBlock d s) := by
    rw [exec, execFfinish, ← cipherBlock_eq_feistelFinish, cipherBlock_eq, complete_ok, complete_ok]
  rw [hseq, runCommands_ksAll, runCommands_load_rounds hload _ rfl rfl, runCommands_singleton, hfinish]

/-- Settles O45: ENC and DEC answer what their micro-sequence does, and so do their step sequences. -/
theorem wholeBlockCommandsEqualTheirSteps : Obligations.WholeBlockCommandsEqualTheirSteps :=
  fun s => ⟨(runCommands_stepSequence (d := .forward) (fun _ => rfl) s).symm,
    (runCommands_stepSequence (d := .reverse) (fun _ => rfl) s).symm⟩

/-! ### The pseudo-instructions ENCIPHER and DECIPHER (R109, R110) -/

/-- The four transactions, for operands that are words. -/
theorem wholeBlock_toNat (k b : Word) (i : Instr) : wholeBlock k.toNat b.toNat i =
    [.write 0x00 k, .write 0x01 b, .write 0x02 (encode i), .read 0x04] := by
  simp [wholeBlock, cmdTxn]

theorem readValue_result (s : State) : readValue 0x04 s = s.result := rfl

/-- A whole-block command completes with the transformed block in RESULT and keeps the host port (R198, R199). -/
theorem exec_cipherBlock {i : Instr} {d : Direction} (hi : ∀ s, exec i s = complete s (cipherBlock d s)) (s : State) :
    ∃ t, exec i s = .next t ∧ t.result = transform s.block (keySchedule s.key) d ∧
      t.pending = s.pending ∧ t.replies = s.replies := by
  have hexec := hi s
  rw [cipherBlock_eq, complete_ok] at hexec
  exact ⟨_, hexec, rfl, rfl, rfl⟩

/-- The four transactions of a whole-block command, one step each, read the transformed block. -/
theorem core_run_wholeBlock {i : Instr} {d : Direction} (hi : ∀ s, exec i s = complete s (cipherBlock d s))
    {s : State} {k b : Word} {rest : List HostTxn} (hp : s.pending = wholeBlock k.toNat b.toNat i ++ rest) :
    ∃ t, core.run 4 s = .next t ∧ t.pending = rest ∧
      t.replies = s.replies ++ [⟨0x04, transform b (keySchedule k) d⟩] := by
  rw [wholeBlock_toNat] at hp
  obtain ⟨t, hexec, hresult, hpending, hreplies⟩ :=
    exec_cipherBlock hi { clearSchedule { s with key := k } with block := b, pending := .read 0x04 :: rest }
  refine ⟨recordRead 0x04 { t with pending := rest }, ?_, rfl, ?_⟩
  · calc core.run 4 s
      _ = core.run 3 _ := core_run_succ (step_of_keyWrite hp)
      _ = core.run 2 _ := core_run_succ (step_of_blockWrite rfl)
      _ = core.run 1 t := core_run_succ ((step_of_command rfl (decode_encode i)).trans hexec)
      _ = core.run 0 _ := core_run_succ (step_of_read hpending)
  · rw [recordRead_replies, readValue_result]
    simp [hresult, hreplies]

/-- Settles O50: the two ciphers are the transform in the two directions (R194). -/
theorem encipherAndDecipherAnswerTheHost : Obligations.EncipherAndDecipherAnswerTheHost :=
  fun _ _ _ _ => ⟨core_run_wholeBlock (d := .forward) fun _ => rfl,
    core_run_wholeBlock (d := .reverse) fun _ => rfl⟩

end Sys2Proof.Machine
end

section
/-! PROOFS. The permutation primitive (40_permutation.md): where a table puts each bit, how many bits a permutation
keeps, and when two inputs have one image. -/

namespace Sys2Proof.Machine
open Sys2Proof.Statements

/-! ### Positions and images (R131) -/

theorem getMsbD_eq_getLsbD_of_lt {w i : Nat} (x : BitVec w) (h : i < w) : x.getMsbD i = x.getLsbD (w - 1 - i) := by
  rw [BitVec.getMsbD_eq_getLsbD, decide_eq_true h, Bool.true_and]

/-- Settles O27: `permute_getMsbD`, with the output position counted from the other end. -/
theorem permutePlacesTableBits : Obligations.PermutePlacesTableBits := by
  intro win wout x t i
  rw [← getMsbD_eq_getLsbD_of_lt _ i.isLt, permute_getMsbD _ _ _ i.isLt]
  rfl

theorem eq_of_desBit_eq {w : Nat} {x y : BitVec w} (h : ∀ n, 1 ≤ n → n ≤ w → desBit x n = desBit y n) : x = y := by
  apply BitVec.eq_of_getMsbD_eq
  intro i hi
  have hbit := h (i + 1) (by omega) hi
  rwa [desBit_eq_getMsbD x (by omega) hi, desBit_eq_getMsbD y (by omega) hi] at hbit

/-- The image holds every bit that the table reads: the converse of `permute_congr`. -/
theorem desBit_eq_of_permute_eq {win wout : Nat} {x y : BitVec win} {t : Vector Nat wout}
    (h : permute x t = permute y t) : ∀ p ∈ t.toList, desBit x p = desBit y p := by
  intro p hp
  obtain ⟨i, hi, rfl⟩ := Vector.getElem_of_mem (Vector.mem_toList_iff.mp hp)
  rw [← permute_getMsbD x t i hi, ← permute_getMsbD y t i hi, h]

/-- Settles O29: the table's entries are positions of its input, and none of them is one of the eight. -/
theorem pc2IgnoresItsUnusedPositions : Obligations.Pc2IgnoresItsUnusedPositions := by
  intro x y hagree
  have hentries : ∀ p ∈ pc2Table.toList, 1 ≤ p ∧ p ≤ 56 ∧ p ∉ [9, 18, 22, 25, 35, 38, 43, 54] := by decide
  refine permute_congr fun p hp => ?_
  obtain ⟨hlow, hhigh, hused⟩ := hentries p hp
  exact hagree p hlow hhigh hused

/-! ### Counting bits -/

/-- Counting from the most significant end gives the same number. -/
theorem bitCount_eq_countP_getMsbD {w : Nat} (x : BitVec w) :
    bitCount x = (List.finRange w).countP fun i => x.getMsbD i.val := by
  rw [bitCount, ← List.countP_reverse, List.finRange_reverse, List.countP_map]
  refine List.countP_congr fun i _ => ?_
  rw [getMsbD_eq_getLsbD_of_lt x i.isLt, Function.comp_apply, Fin.val_rev, Nat.sub_sub, Nat.add_comm]

theorem bitCount_eq_countP_desBit {w : Nat} (x : BitVec w) : bitCount x = (List.range' 1 w).countP (desBit x) := by
  have hpos : List.range' 1 w = (List.finRange w).map fun i => i.val + 1 := by
    apply List.ext_getElem <;> simp [Nat.add_comm]
  rw [bitCount_eq_countP_getMsbD, hpos, List.countP_map]
  refine List.countP_congr fun i _ => ?_
  simp [desBit_eq_getMsbD x (Nat.le_add_left 1 i.val) i.isLt]

/-- An image has a set bit for each entry of the table that names a set bit of the input. -/
theorem bitCount_permute {win wout : Nat} (x : BitVec win) (t : Vector Nat wout) :
    bitCount (permute x t) = t.toList.countP (desBit x) := by
  have hlist : t.toList = (List.finRange wout).map fun i => t[i] := by
    apply List.ext_getElem <;> simp
  rw [bitCount_eq_countP_getMsbD, hlist, List.countP_map]
  refine List.countP_congr fun i _ => ?_
  simp [permute_getMsbD]

/-! ### Tables that use every input position exactly once (R134) -/

/-- The table lists the positions of its input, each once, in some order. -/
def UsesEachPositionOnce {wout : Nat} (win : Nat) (t : Vector Nat wout) : Prop :=
  t.toList.Perm (List.range' 1 win)

theorem bitCount_permute_of_usesEachPositionOnce {win wout : Nat} {t : Vector Nat wout}
    (ht : UsesEachPositionOnce win t) (x : BitVec win) : bitCount (permute x t) = bitCount x := by
  rw [bitCount_permute, bitCount_eq_countP_desBit]
  exact ht.countP_eq _

theorem eq_of_permute_eq {win wout : Nat} {t : Vector Nat wout} (ht : UsesEachPositionOnce win t)
    {x y : BitVec win} (h : permute x t = permute y t) : x = y := by
  refine eq_of_desBit_eq fun n hlow hhigh => desBit_eq_of_permute_eq h n ?_
  exact ht.mem_iff.mpr (List.mem_range'_1.mpr ⟨hlow, by omega⟩)

theorem ipTable_usesEachPositionOnce : UsesEachPositionOnce 64 ipTable := by
  unfold UsesEachPositionOnce; decide

theorem fpTable_usesEachPositionOnce : UsesEachPositionOnce 64 fpTable := by
  unfold UsesEachPositionOnce; decide

theorem pTable_usesEachPositionOnce : UsesEachPositionOnce 32 pTable := by
  unfold UsesEachPositionOnce; decide

/-- Settles O28: each of the three tables uses every position once. -/
theorem bijectiveTablesKeepTheBitCount : Obligations.BijectiveTablesKeepTheBitCount :=
  ⟨fun x => ⟨bitCount_permute_of_usesEachPositionOnce ipTable_usesEachPositionOnce x,
      bitCount_permute_of_usesEachPositionOnce fpTable_usesEachPositionOnce x⟩,
    bitCount_permute_of_usesEachPositionOnce pTable_usesEachPositionOnce,
    fun _ _ => ⟨eq_of_permute_eq ipTable_usesEachPositionOnce, eq_of_permute_eq fpTable_usesEachPositionOnce⟩,
    fun _ _ => eq_of_permute_eq pTable_usesEachPositionOnce⟩

end Sys2Proof.Machine
end

section
/-! PROOFS. The key schedule (41_key_schedule.md): the rotation, what KSLOAD, KSNEXT and the whole walk leave, the
frame of the step commands, and the bits of a key that the schedule reads. -/

namespace Sys2Proof.Machine
open Sys2Proof.Statements

/-! ### The rotation (R143, R153) -/

/-- The two branches of `rotl28_getLsbD` are one index modulo 28. -/
theorem rotl28_getLsbD_mod (x : KeyHalf) {n i : Nat} (hn : n ≤ 28) (hi : i < 28) :
    (rotl28 x n).getLsbD i = x.getLsbD ((i + 28 - n) % 28) := by
  rw [rotl28_getLsbD x n i hn hi]
  split
  case isTrue hwrap => rw [Nat.mod_eq_of_lt (by omega)]
  case isFalse hstay => rw [show i + 28 - n = i - n + 28 by omega, Nat.add_mod_right, Nat.mod_eq_of_lt (by omega)]

/-- Settles O31: amounts 1 and 2 are within a turn. -/
theorem rotationWrapsInsideTheField : Obligations.RotationWrapsInsideTheField := by
  intro x n hn i hi
  exact rotl28_getLsbD_mod x (by omega) hi

/-- Equal rotations add up, as long as they stay within one turn. -/
theorem iterate_rotl28 (x : KeyHalf) (n : Nat) {k : Nat} (h : n * k ≤ 28) :
    Nat.iterate (fun y => rotl28 y n) k x = rotl28 x (n * k) := by
  induction k with
  | zero => exact (rotl28_zero x).symm
  | succ k ih =>
    rw [Nat.mul_succ] at h ⊢
    rw [Function.iterate_succ_apply', ih (by omega), rotl28_rotl28 x _ _ h]

/-- Settles O32: both iterations add up to one whole turn. -/
theorem rotationIsPeriodic : Obligations.RotationIsPeriodic :=
  fun x => ⟨(iterate_rotl28 x 1 (k := 28) (by decide)).trans (rotl28_turn x),
    (iterate_rotl28 x 2 (k := 14) (by decide)).trans (rotl28_turn x)⟩

/-! ### KSLOAD, KSNEXT and KSALL (R147, R150-R152) -/

/-- Settles O33: KSLOAD has one case; its halves are PC-1's two tables. -/
theorem ksloadConstructsASchedule : Obligations.KsloadConstructsASchedule :=
  fun _ => ExecCase.ksload.exec_eq

/-- Settles O34: one case of KSNEXT for each clause. -/
theorem ksnextAdvancesTheSchedule : Obligations.KsnextAdvancesTheSchedule := by
  intro s
  refine ⟨fun hl => ?_, fun hl hr => ?_, fun hl n hr => ⟨_, _, _, rfl, rfl, rfl, ?_⟩⟩
  · exact (ExecCase.ksNotLoaded hl).exec_eq
  · exact (ExecCase.ksEnd hl (Fin.ext hr)).exec_eq
  · exact (ExecCase.ksEmit n hl (Fin.ext hr)).exec_eq

/-- The 16 rotations are one whole turn (R144, R152). -/
theorem halvesAfter_sixteen (key : Word) : halvesAfter key 16 = pc1 key := by
  have hturn : totalShift 16 = 28 := by decide
  rw [halvesAfter_eq key 16 (by decide), hturn, rotl28_turn, rotl28_turn]

/-- The end of the walk is the complete schedule of KEY (R147, R152). -/
theorem scheduleAt_sixteen (s : State) : scheduleAt s 16 = scheduleComplete s := by
  have hkeys : emittedKeys s.key (16 : Fin 17).val = keySchedule s.key := emittedKeys_all s.key
  have hhalves : halvesAfter s.key (16 : Fin 17).val = pc1 s.key := halvesAfter_sixteen s.key
  rw [scheduleAt, hkeys, hhalves]
  rfl

/-- Settles O35: KSALL with no command after it. -/
theorem ksallMaterialisesTheSchedule : Obligations.KsallMaterialisesTheSchedule := by
  intro s
  calc runCommands ksAllCommands s
    _ = runCommands (ksAllCommands ++ []) s := by rw [List.append_nil]
    _ = .next (scheduleAt s 16) := runCommands_ksAll [] s
    _ = .next (scheduleComplete s) := by rw [scheduleAt_sixteen]

/-! ### The frame of the step commands (R150, R151, R195-R197) -/

/-- The key-schedule commands leave the Feistel state and RESULT alone. -/
theorem ExecCase.keySchedule_frame {s t : State} {i : Instr} (hc : ExecCase s i t) (hi : i = .ksload ∨ i = .ksnext) :
    t.l = s.l ∧ t.r = s.r ∧ t.rnd = s.rnd ∧ t.fLoaded = s.fLoaded ∧ t.dir = s.dir ∧ t.result = s.result := by
  cases hc with
  | ksload | ksNotLoaded | ksEmit | ksEnd => exact ⟨rfl, rfl, rfl, rfl, rfl, rfl⟩
  | _ => simp at hi

/-- The driver's step commands leave the key schedule alone. -/
theorem ExecCase.driver_frame {s t : State} {i : Instr} (hc : ExecCase s i t)
    (hi : i = .floadF ∨ i = .floadR ∨ i = .fround ∨ i = .ffinish) :
    t.c = s.c ∧ t.d = s.d ∧ t.rk = s.rk ∧ t.kout = s.kout ∧ t.ksRound = s.ksRound ∧ t.ksLoaded = s.ksLoaded ∧
      t.eos = s.eos := by
  cases hc with
  | ksload | ksNotLoaded | ksEmit | ksEnd | enc | dec => simp at hi
  | _ => exact ⟨rfl, rfl, rfl, rfl, rfl, rfl, rfl⟩

/-- FFINISH leaves the Feistel state alone: it writes RESULT, or records an error. -/
theorem ExecCase.ffinish_frame {s t : State} (hc : ExecCase s .ffinish t) :
    t.l = s.l ∧ t.r = s.r ∧ t.rnd = s.rnd ∧ t.fLoaded = s.fLoaded ∧ t.dir = s.dir := by
  cases hc <;> exact ⟨rfl, rfl, rfl, rfl, rfl⟩

/-- Settles O24, from the commands' cases; that FLOAD and FROUND keep RESULT is `ExecCase.result_change`. -/
theorem stepCommandsKeepTheOtherUnit : Obligations.StepCommandsKeepTheOtherUnit := by
  intro i s t h
  have hc := exec_inv h
  refine ⟨hc.keySchedule_frame, hc.driver_frame, fun hi => ?_, fun hi => ?_⟩
  · by_contra hne
    rcases hi with rfl | rfl | rfl <;> simpa using hc.result_change hne
  · subst hi
    exact hc.ffinish_frame

/-! ### The bits of a key that the schedule reads (R149) -/

theorem desBit_and {w : Nat} (x y : BitVec w) (n : Nat) : desBit (x &&& y) n = (desBit x n && desBit y n) :=
  BitVec.getLsbD_and

/-- PC-1 reads no parity bit. -/
theorem pc1_xor_parity (k m : Word) : pc1 (k ^^^ (m &&& 0x0101010101010101)) = pc1 k := by
  have hentries : ∀ p ∈ pc1C.toList ++ pc1D.toList, desBit (0x0101010101010101 : Word) p = false := by decide
  have hagree : ∀ p ∈ pc1C.toList ++ pc1D.toList,
      desBit (k ^^^ (m &&& 0x0101010101010101)) p = desBit k p := by
    intro p hp
    rw [desBit_xor, desBit_and, hentries p hp, Bool.and_false, Bool.xor_false]
  exact Prod.ext (permute_congr fun p hp => hagree p (List.mem_append_left _ hp))
    (permute_congr fun p hp => hagree p (List.mem_append_right _ hp))

/-- The schedule reads its key through PC-1 alone (R147). -/
theorem keySchedule_congr {k k' : Word} (h : pc1 k = pc1 k') : keySchedule k = keySchedule k' := by
  have hhalves : ∀ n, halvesAfter k n = halvesAfter k' n := by
    intro n
    induction n with
    | zero => exact h
    | succ n ih => rw [halvesAfter, halvesAfter, ih]
  apply Vector.ext
  intro j hj
  rw [keySchedule_getElem, keySchedule_getElem, roundKey, roundKey, hhalves]

/-- Zero halves stay zero. -/
theorem halvesAfter_zero_key (n : Nat) : halvesAfter 0#64 n = (0#28, 0#28) := by
  induction n with
  | zero => simp [halvesAfter, pc1]
  | succ n ih => simp [halvesAfter, ih, rotateHalves]

/-- PC-2 of zero halves is a zero key. -/
theorem keySchedule_zero_key : keySchedule 0#64 = Vector.replicate 16 0 := by
  apply Vector.ext
  intro j hj
  simp [roundKey, halvesAfter_zero_key, pc2]

/-- The parity-only key is the zero key with every parity bit flipped. -/
theorem pc1_parityOnly : pc1 0x0101010101010101 = pc1 0#64 :=
  pc1_xor_parity 0 0x0101010101010101

/-- Settles O36: PC-1 drops the parity bits, and the schedule and both ciphers see the key through PC-1. -/
theorem parityBitsAreIgnored : Obligations.ParityBitsAreIgnored := by
  refine ⟨fun k m b => ?_, ?_, ?_⟩
  · have hks := keySchedule_congr (pc1_xor_parity k m)
    exact ⟨hks, congrArg (transform b · .forward) hks, congrArg (transform b · .reverse) hks⟩
  · exact pc1_parityOnly.trans (halvesAfter_zero_key 0)
  · exact (keySchedule_congr pc1_parityOnly).trans keySchedule_zero_key

end Sys2Proof.Machine
end

section
/-! PROOFS. The round function (42_round_function.md): the bits that select a row and a column, the place of each
S-box's output, and the worked example. -/

namespace Sys2Proof.Machine

/-! ### Row and column of a chunk (R173, R174) -/

/-- The row's high bit is bit 5 of the chunk. -/
theorem sRow_val (b : BitVec 6) : (sRow b).val = 2 * (b.getLsbD 5).toNat + (b.getLsbD 0).toNat := by
  revert b; decide

theorem chunk_getLsbD (x : RoundKey) (i : Fin 8) {n : Nat} (hn : n < 6) :
    (chunk x i).getLsbD n = x.getLsbD (42 - 6 * i.val + n) := by
  simp [chunk, hn]

theorem sRow_chunk_val (x : RoundKey) (i : Fin 8) :
    (sRow (chunk x i)).val = 2 * (x.getLsbD (47 - 6 * i.val)).toNat + (x.getLsbD (42 - 6 * i.val)).toNat := by
  have htop : 42 - 6 * i.val + 5 = 47 - 6 * i.val := by omega
  rw [sRow_val, chunk_getLsbD x i (by decide), chunk_getLsbD x i (by decide), htop, Nat.add_zero]

/-- The four middle bits of chunk i, taken from x itself. -/
theorem chunk_extractLsb'_middle (x : RoundKey) (i : Fin 8) :
    (chunk x i).extractLsb' 1 4 = x.extractLsb' (43 - 6 * i.val) 4 := by
  apply BitVec.eq_of_getLsbD_eq
  intro n hn
  have hbit : 42 - 6 * i.val + (1 + n) = 43 - 6 * i.val + n := by omega
  simp only [BitVec.getLsbD_extractLsb', chunk_getLsbD x i (show 1 + n < 6 by omega), hbit]

theorem sCol_chunk_val (x : RoundKey) (i : Fin 8) :
    (sCol (chunk x i)).val = (x.extractLsb' (43 - 6 * i.val) 4).toNat := by
  rw [← chunk_extractLsb'_middle]
  rfl

/-! ### The place of each output (R176) -/

/-- Nibble i from the top is the output on chunk i. The `change` spells the width as the sum of the nibble widths, as
for the fields of STATUS. -/
theorem sBox_extractLsb' (x : RoundKey) (i : Fin 8) : (sBox x).extractLsb' (28 - 4 * i.val) 4 = sOut x i := by
  change BitVec.extractLsb' (n := 4 + 4 + 4 + 4 + 4 + 4 + 4 + 4) _ _ (sBox x) = _
  fin_cases i
  all_goals
    simp (disch := decide) only [sBox, BitVec.extractLsb'_append_eq_of_le,
      BitVec.extractLsb'_append_eq_of_add_le, BitVec.extractLsb'_eq_self, Nat.sub_self]
    rfl

/-- Settles O37: the row and the column are the ones at which the S-box is read. -/
theorem sboxPacksChunkZeroOnTop : Obligations.SboxPacksChunkZeroOnTop := by
  intro x i row col hrow hcol
  have hrowEq : row = sRow (chunk x i) := Fin.ext (hrow.trans (sRow_chunk_val x i).symm)
  have hcolEq : col = sCol (chunk x i) := Fin.ext (hcol.trans (sCol_chunk_val x i).symm)
  rw [hrowEq, hcolEq, sBox_extractLsb', sOut]

/-! ### The worked example (R178), step by step -/

theorem expand_workedExample : expand 0xF0AAF0AA = 0x7A15557A1555 := by decide

theorem sBox_workedExample : sBox 0x6117BA866527 = 0x5C82B597 := by decide

theorem permute_pTable_workedExample : permute (0x5C82B597 : Half) pTable = (0x234AA9BB : Half) := by decide

theorem feistel_workedExample : feistel 0xF0AAF0AA 0x1B02EFFC7072 = 0x234AA9BB := by
  have hmix : (0x7A15557A1555 ^^^ 0x1B02EFFC7072 : RoundKey) = 0x6117BA866527 := by decide
  rw [feistel, expand_workedExample, hmix, sBox_workedExample, permute_pTable_workedExample]

/-- Settles O38: the composition is the definition, and the example goes through its intermediate values. -/
theorem roundFunctionIsItsFiveSteps : Obligations.RoundFunctionIsItsFiveSteps :=
  ⟨fun _ _ => rfl, expand_workedExample, sBox_workedExample, feistel_workedExample⟩

end Sys2Proof.Machine
end

section
/-! PROOFS. The cipher driver (43_cipher_driver.md): IP and FP, what the driver's commands answer, the round trip of
the two directions, the lazy order, and the complementation property. -/

namespace Sys2Proof.Machine
open Sys2Proof.Statements

/-! ### IP and FP (R192) -/

/-- Reading t at the positions that u lists, one after the other, gives the positions 1 to w in order. -/
def ReadsBack {w : Nat} (t u : Vector Nat w) : Prop :=
  ∀ j : Fin w, 1 ≤ u[j] ∧ u[j] ≤ w ∧ t.toList.getD (u[j] - 1) 0 = j.val + 1

/-- The table that leaves every position where it is. -/
def positions (w : Nat) : Vector Nat w := Vector.ofFn fun j => j.val + 1

theorem permute_positions {w : Nat} (x : BitVec w) : permute x (positions w) = x := by
  apply BitVec.eq_of_getMsbD_eq
  intro j hj
  rw [permute_getMsbD x _ j hj, positions, Vector.getElem_ofFn, desBit_eq_getMsbD x (Nat.le_add_left 1 j) hj]
  rfl

theorem permute_permute_of_readsBack {w : Nat} {t u : Vector Nat w} (h : ReadsBack t u) (x : BitVec w) :
    permute (permute x t) u = x := by
  refine (permute_permute x t u (positions w) fun j => ?_).trans (permute_positions x)
  simpa [positions] using h j

theorem ipTable_readsBack_fpTable : ReadsBack ipTable fpTable := by
  unfold ReadsBack; decide

theorem fpTable_readsBack_ipTable : ReadsBack fpTable ipTable := by
  unfold ReadsBack; decide

@[simp] theorem fpf_ipf (v : Word) : fpf (ipf v) = v := permute_permute_of_readsBack ipTable_readsBack_fpTable v

@[simp] theorem ipf_fpf (v : Word) : ipf (fpf v) = v := permute_permute_of_readsBack fpTable_readsBack_ipTable v

theorem ipf_workedExample : ipf 0x0123456789ABCDEF = 0xCC00CCFFF0AAF0AA := by decide +kernel

/-- Settles O30: each table reads back the other. -/
theorem ipAndFpAreInverse : Obligations.IpAndFpAreInverse :=
  ⟨fun _ => ⟨rfl, rfl⟩, fun v => ⟨fpf_ipf v, ipf_fpf v⟩,
    fun j => have ⟨_, _, hj⟩ := ipTable_readsBack_fpTable j; hj, ipf_workedExample⟩

/-! ### FLOAD, FROUND and FFINISH (R195-R197) -/

/-- Settles O39: FLOAD has one case in each direction. -/
theorem floadLoadsThePermutedBlock : Obligations.FloadLoadsThePermutedBlock :=
  fun _ => ⟨ExecCase.floadF.exec_eq, ExecCase.floadR.exec_eq⟩

/-- The key of round i is entry i of the file in forward order and entry 15 - i in reverse (R193). -/
theorem keyIndex_eq {d : Direction} {i j : Fin 16} (hforward : d = .forward → j.val = i.val)
    (hreverse : d = .reverse → j.val = 15 - i.val) : keyIndex d i.val = j := by
  apply Fin.ext
  cases d with
  | forward => rw [hforward rfl]; exact Nat.mod_eq_of_lt i.isLt
  | reverse => rw [hreverse rfl]; exact Nat.mod_eq_of_lt (by omega)

theorem keyReady_iff (s : State) (j : Fin 16) :
    keyReady s j = true ↔ s.ksLoaded = true ∧ j.val < s.ksRound.val := by
  simp [keyReady]

/-- Settles O40: one case of FROUND for each clause. -/
theorem froundPerformsOneRound : Obligations.FroundPerformsOneRound := by
  intro s
  refine ⟨fun hl => ?_, fun hl hr => ?_, fun hl i j hr hforward hreverse => ?_⟩
  · exact (ExecCase.roundNotLoaded hl).exec_eq
  · exact (ExecCase.roundsDone hl (Fin.ext hr)).exec_eq
  · have hj : keyIndex s.dir i.val = j := keyIndex_eq hforward hreverse
    rw [← keyReady_iff, ← hj]
    refine ⟨fun hk => ?_, fun hk => ?_⟩
    · exact (ExecCase.round i hl (Fin.ext hr) hk).exec_eq
    · exact (ExecCase.rkNotReady i hl (Fin.ext hr) (Bool.eq_false_iff.mpr hk)).exec_eq

/-- Settles O41: one case of FFINISH for each clause. -/
theorem ffinishRecombinesTheHalves : Obligations.FfinishRecombinesTheHalves := by
  intro s
  refine ⟨fun hl => ?_, fun hl hr => ?_, fun hl hr => ?_⟩
  · exact (ExecCase.finishNotLoaded hl).exec_eq
  · exact (ExecCase.roundsPending hl fun h => hr (congrArg Fin.val h)).exec_eq
  · exact (ExecCase.finish hl (Fin.ext hr)).exec_eq

/-! ### ENC and DEC (R198, R199, R201) -/

/-- What a whole-block command leaves in every register, by its direction. -/
theorem exec_cipherBlock_eq {i : Instr} {d : Direction} (hi : ∀ s, exec i s = complete s (cipherBlock d s))
    (s : State) : exec i s = .next { scheduleComplete s with
      l := (halvesAfterRounds s.block (keySchedule s.key) d 16).1
      r := (halvesAfterRounds s.block (keySchedule s.key) d 16).2
      rnd := 16, fLoaded := true, dir := d, result := transform s.block (keySchedule s.key) d } := by
  rw [hi, cipherBlock_eq, scheduleAt_sixteen, complete_ok]
  rfl

/-- Settles O43: ENC is the micro-sequence in forward order. -/
theorem encEnciphersTheBlock : Obligations.EncEnciphersTheBlock :=
  exec_cipherBlock_eq (d := .forward) fun _ => rfl

/-- Settles O44: DEC is the micro-sequence in reverse order. -/
theorem decDeciphersTheBlock : Obligations.DecDeciphersTheBlock :=
  exec_cipherBlock_eq (d := .reverse) fun _ => rfl

/-- The RESULT of a whole-block command is a function of BLOCK and KEY. -/
theorem cipherBlock_result_congr {i : Instr} {d : Direction} (hi : ∀ s, exec i s = complete s (cipherBlock d s))
    {s s' : State} (hkey : s.key = s'.key) (hblock : s.block = s'.block) :
    ∃ t t', exec i s = .next t ∧ exec i s' = .next t' ∧ t.result = t'.result := by
  obtain ⟨t, ht, hresult, -⟩ := exec_cipherBlock hi s
  obtain ⟨t', ht', hresult', -⟩ := exec_cipherBlock hi s'
  exact ⟨t, t', ht, ht', by rw [hresult, hresult', hkey, hblock]⟩

/-- Settles O48: ENC and DEC are the two whole-block commands. -/
theorem resultDependsOnKeyAndBlockAlone : Obligations.ResultDependsOnKeyAndBlockAlone := by
  intro i hi s s' hkey hblock
  rcases hi with rfl | rfl
  · exact cipherBlock_result_congr (d := .forward) (fun _ => rfl) hkey hblock
  · exact cipherBlock_result_congr (d := .reverse) (fun _ => rfl) hkey hblock

/-! ### The round trip (R200) -/

/-- The other key order. -/
def Direction.opposite : Direction → Direction
  | .forward => .reverse
  | .reverse => .forward

/-- The n-th key of one order is the n-th from the end of the other (R193). -/
theorem keyIndex_opposite (d : Direction) {n : Nat} (h : n < 16) : keyIndex d.opposite n = keyIndex d (15 - n) := by
  cases d with
  | forward => rfl
  | reverse => simp [Direction.opposite, keyIndex, show 15 - (15 - n) = n by omega]

/-- A round with the halves exchanged undoes the round with the same key: the Feistel structure. -/
theorem feistelRound_swap (k : RoundKey) (lr : Half × Half) :
    feistelRound k (feistelRound k lr).swap = lr.swap := by
  obtain ⟨l, r⟩ := lr
  simp [feistelRound]

theorem splitHalves_append (l r : Half) : splitHalves (l ++ r) = (l, r) :=
  Prod.ext BitVec.extractLsb'_append_eq_left BitVec.extractLsb'_append_eq_right

theorem splitHalves_eq_append (x : Word) : (splitHalves x).1 ++ (splitHalves x).2 = x :=
  BitVec.extractLsb'_append_extractLsb'

/-- Loading a finished block gives its halves exchanged. -/
theorem splitHalves_ipf_finishHalves (lr : Half × Half) : splitHalves (ipf (finishHalves lr)) = lr.swap := by
  rw [finishHalves, ipf_fpf, splitHalves_append]
  rfl

theorem finishHalves_swap_splitHalves (b : Word) : finishHalves (splitHalves (ipf b)).swap = b := by
  rw [finishHalves, Prod.fst_swap, Prod.snd_swap, splitHalves_eq_append, fpf_ipf]

/-- The opposite order walks back, with the halves exchanged: after n of its rounds it stands where the first walk
stood n rounds before its end. -/
theorem halvesAfterRounds_opposite (b : Word) (k : Vector RoundKey 16) (d : Direction) {n : Nat} (h : n ≤ 16) :
    halvesAfterRounds (transform b k d) k d.opposite n = (halvesAfterRounds b k d (16 - n)).swap := by
  induction n with
  | zero => exact splitHalves_ipf_finishHalves _
  | succ n ih =>
    have hback : 16 - n = 15 - n + 1 := by omega
    have hstep : 16 - (n + 1) = 15 - n := by omega
    have hkey : k[keyIndex d.opposite n] = k[keyIndex d (15 - n)] := by simp only [keyIndex_opposite d h]
    rw [halvesAfterRounds, ih (by omega), hback, halvesAfterRounds, hkey, feistelRound_swap, hstep]

theorem transform_opposite (b : Word) (k : Vector RoundKey 16) (d : Direction) :
    transform (transform b k d) k d.opposite = b := by
  rw [transform, halvesAfterRounds_opposite b k d (Nat.le_refl 16), Nat.sub_self, halvesAfterRounds,
    finishHalves_swap_splitHalves]

theorem decipher_encipher (b k : Word) : decipher (encipher b k) k = b :=
  transform_opposite b (keySchedule k) .forward

theorem encipher_decipher (b k : Word) : encipher (decipher b k) k = b :=
  transform_opposite b (keySchedule k) .reverse

/-- Settles O47: for the commands, ENC leaves RESULT = encipher(BLOCK, KEY) and keeps KEY, so DEC deciphers just that
under the same KEY. -/
theorem decipherUndoesEncipher : Obligations.DecipherUndoesEncipher := by
  refine ⟨fun b k => ⟨decipher_encipher b k, encipher_decipher b k⟩, fun s => ?_⟩
  exact ⟨_, _, encEnciphersTheBlock s, decDeciphersTheBlock _, decipher_encipher s.block s.key⟩

/-! ### The lazy order (R202) -/

/-- FLOAD before any key is emitted (R202). -/
theorem feistelLoad_ksLoad (d : Direction) (s : State) :
    feistelLoad d (ksLoad s) = roundsAt (scheduleAt s 0) (keySchedule s.key) d 0 := by
  rw [ksLoad_eq_scheduleAt]
  rfl

/-- KSNEXT takes one step of the schedule, whatever the Feistel state: the two units are independent. -/
theorem exec_ksnext_roundsAt (s : State) (k : Vector RoundKey 16) (d : Direction) (m : Fin 17) (n : Fin 16) :
    exec .ksnext (roundsAt (scheduleAt s n.castSucc) k d m) = .next (roundsAt (scheduleAt s n.succ) k d m) :=
  congrArg (complete _) (ksNext_scheduleAt (roundsAt s k d m) n)

/-- Round n in forward order needs no key after the n-th (R202). -/
theorem exec_fround_lazy (s : State) (n : Fin 16) :
    exec .fround (roundsAt (scheduleAt s n.succ) (keySchedule s.key) .forward n.castSucc) =
      .next (roundsAt (scheduleAt s n.succ) (keySchedule s.key) .forward n.succ) := by
  have hindex : keyIndex .forward n.val = n := keyIndex_eq (fun _ => rfl) nofun
  refine congrArg (complete _) (feistelNext_roundsAt (scheduleAt s n.succ) (keySchedule s.key) .forward n ?_ ?_)
  · rw [hindex, keyReady_iff]
    exact ⟨rfl, Nat.lt_succ_self n.val⟩
  · simp [hindex, scheduleAt, emittedKeys]

/-- The state of the lazy order after n of its passes: n keys emitted and n rounds done. -/
def lazyAt (s : State) (n : Fin 17) : State := roundsAt (scheduleAt s n) (keySchedule s.key) .forward n

theorem runCommands_lazyPass (s : State) (is : List Instr) (n : Fin 16) :
    runCommands (.ksnext :: .fround :: is) (lazyAt s n.castSucc) = runCommands is (lazyAt s n.succ) := by
  rw [lazyAt, runCommands_cons (exec_ksnext_roundsAt s _ _ _ n), runCommands_cons (exec_fround_lazy s n), lazyAt]

/-- From any pass on, the rest of the passes end after the 16th. -/
theorem runCommands_lazyAt (s : State) (is : List Instr) (n : Fin 17) :
    runCommands ((List.replicate (16 - n.val) [.ksnext, .fround]).flatten ++ is) (lazyAt s n) =
      runCommands is (lazyAt s 16) := by
  induction n using Fin.reverseInduction with
  | last => rfl
  | cast n ih =>
    have hleft : 16 - n.castSucc.val = 16 - n.succ.val + 1 := by rw [Fin.val_castSucc, Fin.val_succ]; omega
    rw [hleft, List.replicate_succ, List.flatten_cons]
    exact (runCommands_lazyPass s _ n).trans ih

/-- FFINISH after the last pass answers what ENC answers. -/
theorem exec_ffinish_lazyAt (s : State) : exec .ffinish (lazyAt s 16) = exec .enc s :=
  (ExecCase.finish rfl rfl).exec_eq.trans ExecCase.enc.exec_eq.symm

theorem runCommands_lazySequence (s : State) : runCommands lazySequence s = exec .enc s := by
  calc runCommands lazySequence s
    _ = runCommands ((List.replicate 16 [.ksnext, .fround]).flatten ++ [.ffinish]) (lazyAt s 0) := by
      rw [lazyAt, ← feistelLoad_ksLoad]; rfl
    _ = runCommands [.ffinish] (lazyAt s 16) := runCommands_lazyAt s [.ffinish] 0
    _ = exec .enc s := by rw [runCommands_singleton, exec_ffinish_lazyAt]

/-- In reverse order the first round needs the last key, and one KSNEXT has emitted only the first (R202). -/
theorem exec_fround_reverse_of_one_key (s : State) (k : Vector RoundKey 16) :
    exec .fround (roundsAt (scheduleAt s 1) k .reverse 0) =
      .next (raiseError .rkNotReady (roundsAt (scheduleAt s 1) k .reverse 0)) :=
  exec_fround_rkNotReady rfl (Nat.zero_lt_succ 15) rfl

/-- Settles O46: the forward order goes through the states `lazyAt`, and in reverse order key 15 is missing. -/
theorem lazyForwardOrderEqualsEnc : Obligations.LazyForwardOrderEqualsEnc := by
  intro s
  refine ⟨runCommands_lazySequence s, roundsAt (scheduleAt s 1) (keySchedule s.key) .reverse 0, ?_,
    exec_fround_reverse_of_one_key s _⟩
  calc runCommands [.ksload, .floadR, .ksnext] s
    _ = runCommands [.ksnext] (feistelLoad .reverse (ksLoad s)) := rfl
    _ = .next _ := by rw [feistelLoad_ksLoad, runCommands_singleton]; exact exec_ksnext_roundsAt s _ _ 0 0

/-! ### Complementation (95_test_vectors.md D-D5 and D-D6) -/

theorem pc1_not (key : Word) : pc1 (~~~ key) = (~~~ (pc1 key).1, ~~~ (pc1 key).2) :=
  Prod.ext (permute_not key pc1C (by decide)) (permute_not key pc1D (by decide))

theorem rotl28_not (x : KeyHalf) {n : Nat} (h : n ≤ 28) : rotl28 (~~~ x) n = ~~~ rotl28 x n := by
  apply BitVec.eq_of_getLsbD_eq
  intro i hi
  have hsource : (i + 28 - n) % 28 < 28 := Nat.mod_lt _ (by decide)
  rw [rotl28_getLsbD_mod _ h hi, BitVec.getLsbD_not, BitVec.getLsbD_not, rotl28_getLsbD_mod _ h hi,
    decide_eq_true hi, decide_eq_true hsource]

theorem shiftOf_le (r : Nat) : shiftOf r ≤ 28 := by
  unfold shiftOf; split <;> decide

theorem halvesAfter_not (key : Word) (n : Nat) :
    halvesAfter (~~~ key) n = (~~~ (halvesAfter key n).1, ~~~ (halvesAfter key n).2) := by
  induction n with
  | zero => exact pc1_not key
  | succ n ih => simp [halvesAfter, rotateHalves, ih, rotl28_not _ (shiftOf_le n)]

/-- The complement of a key has the complements of its round keys. -/
theorem roundKey_not (key : Word) (r : Nat) : roundKey (~~~ key) r = ~~~ roundKey key r := by
  rw [roundKey, halvesAfter_not, pc2, ← BitVec.not_append, permute_not _ _ (by decide)]
  rfl

/-- Key mixing cancels the two complements, so the round function does not see them. -/
theorem feistel_not (r : Half) (k : RoundKey) : feistel (~~~ r) (~~~ k) = feistel r k := by
  have hexpand : expand (~~~ r) = ~~~ expand r := permute_not r eTable (by decide)
  rw [feistel, hexpand, ← BitVec.not_xor_left, ← BitVec.not_xor_right, BitVec.not_not]
  rfl

theorem feistelRound_not (k : RoundKey) (lr : Half × Half) : feistelRound (~~~ k) (~~~ lr.1, ~~~ lr.2) =
    (~~~ (feistelRound k lr).1, ~~~ (feistelRound k lr).2) := by
  simp [feistelRound, feistel_not, BitVec.not_xor_left]

theorem splitHalves_not (x : Word) : splitHalves (~~~ x) = (~~~ (splitHalves x).1, ~~~ (splitHalves x).2) := by
  rw [← splitHalves_append, ← BitVec.not_append, splitHalves_eq_append]

theorem halvesAfterRounds_not (b key : Word) (d : Direction) (n : Nat) :
    halvesAfterRounds (~~~ b) (keySchedule (~~~ key)) d n =
      (~~~ (halvesAfterRounds b (keySchedule key) d n).1, ~~~ (halvesAfterRounds b (keySchedule key) d n).2) := by
  induction n with
  | zero => rw [halvesAfterRounds, ipf, permute_not _ _ (by decide), splitHalves_not]; rfl
  | succ n ih =>
    have hkey : (keySchedule (~~~ key))[keyIndex d n] = ~~~ (keySchedule key)[keyIndex d n] := by
      simp [roundKey_not]
    rw [halvesAfterRounds, ih, hkey, feistelRound_not]
    rfl

theorem finishHalves_not (lr : Half × Half) : finishHalves (~~~ lr.1, ~~~ lr.2) = ~~~ finishHalves lr := by
  rw [finishHalves, ← BitVec.not_append]
  exact permute_not _ _ (by decide)

/-- Settles O49: the complement passes through every permutation and cancels in every round function. -/
theorem complementationHolds : Obligations.ComplementationHolds := by
  intro b k
  rw [encipher, transform, halvesAfterRounds_not, finishHalves_not]
  rfl

end Sys2Proof.Machine
end

section
/-! PROOFS. The errors (60_exceptions.md): which CMD words are illegal, that no transaction stops the block, that an
error is precise, and that the driver commands need a loaded state. -/

namespace Sys2Proof

/-! ### Which fields are illegal (R104, R105) -/

theorem CmdFields.wf_of_unassignedOp {f : CmdFields} (h : f.opAssigned = false) : f.wf = false := by
  rw [CmdFields.wf, h, Bool.and_false, Bool.false_and]

theorem CmdFields.wf_of_dirNotTaken {f : CmdFields} (h : f.dirTaken = false) : f.wf = false := by
  rw [CmdFields.wf, h, Bool.and_false]

/-- The OPs of no row of the opcode map (R105). -/
theorem CmdFields.opAssigned_eq_false {f : CmdFields} (h : f.op = 0x0 ∨ 0x7 ≤ f.op.toNat) :
    f.opAssigned = false := by
  rcases h with h0 | h7
  · rw [CmdFields.opAssigned, h0]; rfl
  · rw [CmdFields.opAssigned, decide_eq_false (show ¬ f.op.toNat ≤ 6 by omega), Bool.and_false]

/-- DIR set with one of the four OPs that take no direction (R104). -/
theorem CmdFields.dirTaken_eq_false {f : CmdFields} (hdir : f.dir = 1)
    (hop : f.op = 0x2 ∨ f.op = 0x3 ∨ f.op = 0x5 ∨ f.op = 0x6) : f.dirTaken = false := by
  rw [CmdFields.dirTaken, hdir]
  rcases hop with h | h | h | h <;> rw [h] <;> rfl

/-- A word with illegal fields is rejected (R101). -/
theorem exists_decode_error {w : Word} (h : (cmdFields w).wf = false) : ∃ e, decode w = .error e := by
  rw [← decode_isOk] at h
  cases hd : decode w with
  | ok i => simp [hd, Except.isOk, Except.toBool] at h
  | error e => exact ⟨e, rfl⟩

end Sys2Proof

namespace Sys2Proof.Machine
open Sys2Proof.Statements

/-- Settles O4: each class of words fails one of the three checks of the format. -/
theorem illegalWordsRaiseIllegalCmd : Obligations.IllegalWordsRaiseIllegalCmd := by
  intro s w rest hp hw
  have hwf : (cmdFields w).wf = false := by
    rcases hw with hrsvd | hzero | hhigh | ⟨hdir, hop⟩
    · exact CmdFields.wf_of_reserved hrsvd
    · exact CmdFields.wf_of_unassignedOp (CmdFields.opAssigned_eq_false (.inl hzero))
    · exact CmdFields.wf_of_unassignedOp (CmdFields.opAssigned_eq_false (.inr hhigh))
    · exact CmdFields.wf_of_dirNotTaken (CmdFields.dirTaken_eq_false hdir hop)
  obtain ⟨e, hd⟩ := exists_decode_error hwf
  exact step_of_illegal hp hd

/-- A transaction takes itself from the queue and nothing else: no command writes the host port (R76, R82). -/
theorem StepCase.pending_eq_tail {s t : State} (hc : StepCase s t) : t.pending = s.pending.tail := by
  cases hc with
  | command hp hd hx hc =>
    obtain ⟨-, -, hpending, -⟩ := hc.frame
    rw [hpending, hp, List.tail_cons]
  | idle hp | read hp | reset hp | keyWrite hp | blockWrite hp | badWrite hp | illegal hp => rw [hp]; rfl

/-- Settles O17: every case of a step is an answer. -/
theorem everyStepAnswersNext : Obligations.EveryStepAnswersNext := by
  intro s
  obtain ⟨t, ht, hc⟩ := step_cases s
  exact ⟨t, ht, hc.pending_eq_tail⟩

/-- The first error since reset is recorded under its own code (R232). -/
theorem raiseError_errCode_of_not_err {s : State} (h : s.err = false) (e : ErrorCode) :
    (raiseError e s).errCode = e.code := by
  rw [raiseError_errCode, h]; rfl

/-- Once an error is recorded, a later one has no effect at all (R44, R232). -/
theorem raiseError_of_err {s : State} (h : s.err = true) (e : ErrorCode) : raiseError e s = s := by
  rw [raiseError, if_pos h, ← h]

/-- Settles O19: of a transaction's three cases only the recording of an error changes the record, and only where
no error stood before. -/
theorem errorsArePrecise : Obligations.ErrorsArePrecise := by
  intro s t h hreset hchange
  rcases (step_inv h).error_cases with ⟨hr, -⟩ | ⟨e, rfl⟩ | ⟨herr, hcode⟩
  · exact absurd hr hreset
  · have hs : s.err = false := Bool.eq_false_iff.mpr fun hset => by
      rw [raiseError_of_err (s := popTxn s) hset] at hchange
      simp at hchange
    obtain ⟨hpos, hle⟩ := e.code_range
    rw [raiseError_errCode_of_not_err (s := popTxn s) hs]
    exact ⟨hs, hpos, hle, rfl⟩
  · simp [herr, hcode] at hchange

/-- Settles O42: both commands check F_LOADED first. -/
theorem driverCommandsNeedALoadedState : Obligations.DriverCommandsNeedALoadedState :=
  fun _ hl => ⟨(ExecCase.roundNotLoaded hl).exec_eq, (ExecCase.finishNotLoaded hl).exec_eq⟩

end Sys2Proof.Machine
end

section
/-! PROOFS. Reset and waiting (70_reset_and_hazards.md): HostReset and power-on leave zero registers, zero registers
read 0 at every index, and with no transaction issued a step changes nothing. -/

namespace Sys2Proof.Machine
open Sys2Proof.Statements

/-! ### Zero registers read 0 (R30, R33, R262) -/

/-- Every field of STATUS is then 0, and so is the word they are the layout of (R33). -/
theorem statusWord_of_everyRegisterZero {t : State} (h : everyRegisterZero t) : statusWord t = 0 := by
  obtain ⟨-, -, -, -, -, -, -, -, -, hround, hloaded, heos, hrnd, hfl, hdir, herr, hcode⟩ := h
  rw [statusWord, hround, hloaded, heos, hrnd, hfl, hdir, herr, hcode]
  rfl

/-- Every mapped register then reads 0, narrow ones being zero-extended (R75). -/
theorem regValue_of_everyRegisterZero {t : State} (h : everyRegisterZero t) (reg : Reg) : regValue t reg = 0 := by
  have hstatus := statusWord_of_everyRegisterZero h
  obtain ⟨hkey, hblock, hresult, hkout, hc, hd, hl, hr, hrk, -⟩ := h
  cases reg with
  | key => exact hkey
  | block => exact hblock
  | cmd => rfl
  | status => exact hstatus
  | result => exact hresult
  | kout => rw [regValue, hkout]; rfl
  | cd => rw [regValue, hc, hd]; rfl
  | lr => rw [regValue, hl, hr]; rfl
  | rk j => rw [regValue, hrk j]; rfl

/-- So does every index, an unmapped one in any state (R77). -/
theorem readValue_of_everyRegisterZero {t : State} (h : everyRegisterZero t) (i : RegIndex) : readValue i t = 0 := by
  cases hreg : regAt i with
  | none => exact readValue_unmapped hreg t
  | some reg => rw [readValue, hreg]; exact regValue_of_everyRegisterZero h reg

/-! ### HostReset and power-on (R71, R260) -/

theorem step_of_reset {s : State} {rest : List HostTxn} (hp : s.pending = .reset :: rest) :
    step s = .next (resetBlock { s with pending := rest }) := by
  rw [step, fetch_cons hp, fetchTxn_reset]

/-- HostReset zeroes the registers of any state; the round-key file is the only one with entries of its own. -/
theorem everyRegisterZero_resetBlock (s : State) : everyRegisterZero (resetBlock s) := by
  have hrk (j : Fin 16) : (resetBlock s).rk[j] = 0 := by
    rw [resetBlock_rk, Fin.getElem_fin, Vector.getElem_replicate]
  exact ⟨rfl, rfl, rfl, rfl, rfl, rfl, rfl, rfl, hrk, rfl, rfl, rfl, rfl, rfl, rfl, rfl, rfl⟩

/-- Settles O15: HostReset zeroes every register, power-on is a state that HostReset leaves as it is, and zero
registers read 0. -/
theorem resetLeavesEveryRegisterZero : Obligations.ResetLeavesEveryRegisterZero := by
  have hpower : everyRegisterZero State.reset := everyRegisterZero_resetBlock State.reset
  refine ⟨fun s rest hp => ?_, hpower, readValue_of_everyRegisterZero hpower⟩
  have hreset := everyRegisterZero_resetBlock { s with pending := rest }
  exact ⟨_, step_of_reset hp, hreset, readValue_of_everyRegisterZero hreset⟩

/-! ### Waiting (R263) -/

/-- Settles O16: an empty queue gives the step nothing to take. -/
theorem withoutTransactionNothingChanges : Obligations.WithoutTransactionNothingChanges := by
  intro s hp
  rw [step, fetch_nil hp]

end Sys2Proof.Machine
end

section
/-! PROOFS. The encoding vectors (95_test_vectors.md §4): a legal word is the word of a row, and an illegal one is
rejected for its reserved bits or, with those 0, for its OP and DIR. -/

namespace Sys2Proof

/-- Settles O5: the legal words are those of five rows; of the illegal ones, two have a reserved bit set and two are
refused by the case distinction on OP and DIR. -/
theorem listedWordsDecodeAsListed : Obligations.ListedWordsDecodeAsListed := by
  have hzero : decode 0x0000000000000000 = .error .unassignedOp := decode_of_reserved_zero (by decide)
  have hdir : decode 0x0000000000000015 = .error .dirNotTaken := decode_of_reserved_zero (by decide)
  have hlow : decode 0x0000000000000021 = .error .reservedBits := decode_of_reserved (by decide)
  have hhigh : decode 0x8000000000000001 = .error .reservedBits := decode_of_reserved (by decide)
  exact ⟨decode_encode .enc, decode_encode .dec, decode_encode .ksnext, decode_encode .floadR, decode_encode .ffinish,
    hzero, hdir, hlow, hhigh⟩

end Sys2Proof
end
